-- ==== Sys2Proof/Word.lean ====
section
/-! DEFINITION. The two word types of the machine (00_scope.md R5, R7): bit 0 is the least
significant bit, 8-bit arithmetic is modulo 256 and 16-bit arithmetic modulo 65,536 (R8). -/

namespace Sys2Proof

/-- A memory cell, a port datum, the registers A, B, C and an operand byte: 8 bits (R5). -/
abbrev Byte := BitVec 8

/-- An address, and the registers BC, X, SP, PC: 16 bits (R5). -/
abbrev Word := BitVec 16

end Sys2Proof
end

