-- ==== Sys2Proof/Machine/Bits.lean ====
section
/-! DEFINITION. Bit fields, byte order and sign extension (00_scope.md R7, R8). -/

namespace Sys2Proof

/-- `concat(h, l)` of R8: `256*h + l`. -/
def concat (h l : Byte) : Word := BitVec.ofNat 16 (256 * h.toNat + l.toNat)

/-- `lo(v)` of R8: bits 7:0. -/
def lo (v : Word) : Byte := BitVec.ofNat 8 (v.toNat % 256)

/-- `hi(v)` of R8: bits 15:8. -/
def hi (v : Word) : Byte := BitVec.ofNat 8 (v.toNat / 256)

/-- `sext_16(b)` of R8. -/
def sext16 (b : Byte) : Word := b.signExtend 16

/-- The number of bits of `b` that are 1, as R31 and R38 count them. -/
def popcount (b : Byte) : Nat := (List.range 8).countP fun k => b.getLsbD k

/-- Byte `k` of an instruction whose bits are the number `w`, its first byte in bits 7..0. -/
def byteAt (w k : Nat) : Byte := BitVec.ofNat 8 (w >>> (8 * k))

end Sys2Proof
end

