-- ==== Sys2Proof/Syntax.lean ====
section
/-! DEFINITION. The syntax of the instruction set: the operand kinds of 30_encoding.md section 2 and
one constructor of `Instr` per row of opcode_table.json, in the table's order. Register numbers and
operation codes are constructors, so that every term is an instruction of the machine. -/

namespace Sys2Proof

/-- `reg8` (30_encoding.md R103). -/
inductive Reg8 where
  | a | b | c
  deriving DecidableEq, Repr

/-- `reg16` (30_encoding.md R106). -/
inductive Reg16 where
  | bc | x | sp
  deriving DecidableEq, Repr

/-- `mem8`, the three memory modes (30_encoding.md R104), which `op8` shares (R102, R112). -/
inductive Mem8 where
  /-- `(addr)` -/
  | addr (a : Word)
  /-- `(BC)` -/
  | atBC
  /-- `(X+rel8)` -/
  | atX (rel : Byte)
  deriving DecidableEq, Repr

/-- `op8`, the 8-bit source operand (30_encoding.md R102). -/
inductive Op8 where
  | mem (m : Mem8)
  | reg (r : Reg8)
  | dat8 (d : Byte)
  deriving DecidableEq, Repr

/-- `op16`, the 16-bit source operand (30_encoding.md R105). -/
inductive Op16 where
  | reg (r : Reg16)
  | dat16 (d : Word)
  deriving DecidableEq, Repr

/-- The instructions, one constructor per row of opcode_table.json. -/
inductive Instr where
  | nop
  | popAF
  | popBC
  | popX
  | pushAF
  | pushBC
  | pushX
  | ret
  | stc
  | sti
  | call (addr : Word)
  | cli
  | clc
  | hlt
  | inAC
  | int (vector : Byte)
  | jc (rel : Byte)
  | jmpAddr (addr : Word)
  | jnc (rel : Byte)
  | jno (rel : Byte)
  | jnp (rel : Byte)
  | jns (rel : Byte)
  | jnz (rel : Byte)
  | jo (rel : Byte)
  | jp (rel : Byte)
  | js (rel : Byte)
  | jz (rel : Byte)
  | jmpReg (r : Reg16)
  | outCA
  | decReg16 (r : Reg16)
  | incReg16 (r : Reg16)
  | sar
  | movMem8 (dst : Mem8) (src : Reg8)
  | movReg16 (dst : Reg16) (src : Op16)
  | movReg8 (dst : Reg8) (src : Op8)
  | cmp (src : Op8)
  | add (src : Op8)
  | adc (src : Op8)
  | and (src : Op8)
  | ror
  | decReg8 (r : Reg8)
  | rol
  | incReg8 (r : Reg8)
  | neg
  | not
  | or (src : Op8)
  | rcl
  | rcr
  | sbb (src : Op8)
  | shl
  | shr
  | sub (src : Op8)
  | xor (src : Op8)
  deriving DecidableEq, Repr

/-- The operand bytes a memory mode adds after the opcode: column A of R104. -/
def Mem8.extraBytes : Mem8 → Nat
  | .addr _ => 2
  | .atBC => 0
  | .atX _ => 1

/-- The operand bytes an `op8` adds after the opcode: column A of R102. -/
def Op8.extraBytes : Op8 → Nat
  | .mem m => m.extraBytes
  | .reg _ => 0
  | .dat8 _ => 1

/-- The operand bytes an `op16` adds after the opcode: column A of R105. -/
def Op16.extraBytes : Op16 → Nat
  | .reg _ => 0
  | .dat16 _ => 2

/-- The length of an instruction in bytes (30_encoding.md R113; column "Bytes" of
70_reset_and_hazards.md R381). -/
def Instr.length : Instr → Nat
  | .nop | .popAF | .popBC | .popX | .pushAF | .pushBC | .pushX | .ret | .stc | .sti | .cli | .clc
  | .hlt | .inAC | .jmpReg _ | .outCA | .decReg16 _ | .incReg16 _ | .sar | .ror | .decReg8 _ | .rol
  | .incReg8 _ | .neg | .not | .rcl | .rcr | .shl | .shr => 1
  | .int _ | .jc _ | .jnc _ | .jno _ | .jnp _ | .jns _ | .jnz _ | .jo _ | .jp _ | .js _ | .jz _ => 2
  | .call _ | .jmpAddr _ => 3
  | .movMem8 m _ => 1 + m.extraBytes
  | .movReg16 _ s => 1 + s.extraBytes
  | .movReg8 _ s => 1 + s.extraBytes
  | .cmp s | .add s | .adc s | .and s | .or s | .sbb s | .sub s | .xor s => 1 + s.extraBytes

end Sys2Proof
end

