-- ==== Sys2Proof/Config.lean ====
section
/-! DEFINITION. What the spec leaves to the implementation or the environment (00_scope.md R6): the
named parameters as plain data, and the free values as constants without a body, of which nothing
can be evaluated or proved. -/

namespace Sys2Proof

/-- The kinds of address range a platform may have besides RAM (20_memory.md R73, D13). -/
inductive RegionKind where
  /-- a store is ignored, a read returns the loaded byte -/
  | rom
  /-- a store is ignored, a read returns an unspecified byte -/
  | absent
  deriving DecidableEq, Repr

/-- One address range of a `MemMap` that is not RAM: `size` addresses from `base` on (R73). -/
structure Region where
  base : Nat
  size : Nat
  kind : RegionKind
  deriving DecidableEq, Repr

/-- The parameters that the model takes as arguments (00_scope.md R6). They are fixed for a run.
`ILLEGAL_OPCODE` has the one value `fault` (D4) and so no field. -/
structure Params where
  /-- `RESET_PC` (70_reset_and_hazards.md R370, D6) -/
  resetPc : Word
  /-- `HLT_ADVANCES_PC` (44_system_io.md R271, D10) -/
  hltAdvancesPc : Bool
  /-- `HWINT_CLEARS_FI` (60_exceptions.md R339, D9) -/
  hwintClearsFi : Bool
  /-- `MemMap` (20_memory.md R73, D13): the ranges that are not RAM -/
  memMap : List Region
  deriving DecidableEq, Repr

/-- The defaults of R6. `RESET_PC` has no default in the spec: 0x0200 is a DESIGN CHOICE (log 2,
unsafe), the value every program of 95_test_vectors.md section 3 takes. -/
def Params.default : Params :=
  { resetPc := 0x0200#16, hltAdvancesPc := true, hwintClearsFi := false, memMap := [] }

/-- FREE VALUE (log 4, safe): the byte of a cell that nobody loaded and nothing has written, by its
address: the same each time it is read (70_reset_and_hazards.md R372, treatment (a)). -/
opaque Config.unspecifiedByte : Word → Byte

/-- FREE VALUE (log 12, safe but for reads within one step): what a read of an absent cell returns,
by the position in the run and the address (20_memory.md R73, 93 U13). -/
opaque Config.absentByte : Nat → Word → Byte

/-- FREE VALUE (log 6, safe): bits 7 and 6 of the byte `PUSH AF` stores for F, by the position in
the run (10_state.md R25, 40_data_transfer.md R137, D5). -/
opaque Config.unusedFBits : Nat → BitVec 2

/-- FREE VALUE (log 13, safe): `PortOracle`, what a read of a port returns, by the position in the
run and the port (20_memory.md R61, 44_system_io.md R276, D11). -/
opaque Config.portOracle : Nat → Byte → Byte

/-- FREE VALUE (log 7, safe): `IrqOracle`, what the environment presents at an instruction boundary,
by the position in the run: no request, or a request with a vector (60_exceptions.md R336, D8). -/
opaque Config.irqOracle : Nat → Option Byte

/-- FREE VALUE (log 35, safe): the outputs C and O of the ALU when it passes ENT2 on, by ENT1, ENT2 and the
carry input (46_alu_microops.md R291, R292). No instruction takes them. -/
opaque Config.passFlags : Byte → Byte → Bool → Bool × Bool

end Sys2Proof
end

