-- ==== Sys2Proof/WellFormed.lean ====
section
/-! DEFINITION. The checks on what a program, a loader or a platform supplies. Every term of `Instr`
is well formed: its operands are constructors, and every value of addr, rel8, dat8, dat16 and vector
is legal (30_encoding.md R119, last sentence). What can be ill formed is raw code, a jump written
with its target, a memory image and a memory map. -/

namespace Sys2Proof

/-- The 106 first bytes of 30_encoding.md R119, in its order, as ranges `(first, last)`. -/
def undefinedOpcodes : List (Nat × Nat) :=
  [(0x04, 0x04), (0x1F, 0x1F), (0x21, 0x2F), (0x33, 0x33), (0x37, 0x3F), (0x44, 0x44), (0x48, 0x48),
   (0x4C, 0x4F), (0x5C, 0x5F), (0x60, 0x67), (0x6F, 0x6F), (0x77, 0x77), (0x7F, 0x7F), (0x87, 0x87),
   (0x8F, 0x8F), (0x97, 0x97), (0x9F, 0x9F), (0xA4, 0xA7), (0xAC, 0xAF), (0xB1, 0xB7), (0xB9, 0xBF),
   (0xC7, 0xC7), (0xC9, 0xCF), (0xD1, 0xD7), (0xDF, 0xDF), (0xE1, 0xE7), (0xE9, 0xEF), (0xF7, 0xF7),
   (0xFF, 0xFF)]

/-- Whether a first byte selects an instruction, by the list of R119. -/
def opcodeDefined (b : Byte) : Bool :=
  !undefinedOpcodes.any fun r => decide (r.1 ≤ b.toNat) && decide (b.toNat ≤ r.2)

/-- The first bytes of the instructions of two and of three bytes that no `op8` code selects
(R113 to R115). -/
def opcodeLengthFixed : List (Nat × Nat) :=
  [(0x0B, 3), (0x10, 2), (0x11, 2), (0x12, 3), (0x13, 2), (0x14, 2), (0x15, 2), (0x16, 2), (0x17, 2),
   (0x18, 2), (0x19, 2), (0x1A, 2), (0x1B, 2), (0x41, 3), (0x42, 3), (0x43, 3), (0x49, 2), (0x4A, 2),
   (0x4B, 2), (0x52, 3), (0x56, 3), (0x5A, 3)]

/-- Whether a defined first byte holds an `op8` code in bits 2:0 (formats MOVR8 and ALU8 of R91). -/
def opcodeHasOp8 (b : Byte) : Bool :=
  let n := b.toNat
  (0x68 ≤ n && n ≤ 0x9F) || (0xC0 ≤ n && n ≤ 0xC7) || (0xD8 ≤ n && n ≤ 0xDF) || 0xF0 ≤ n

/-- The length that a defined first byte alone determines (30_encoding.md R113). -/
def opcodeLength (b : Byte) : Nat :=
  if opcodeHasOp8 b then
    match b.toNat % 8 with
    | 0 => 3
    | 4 | 6 => 2
    | _ => 1
  else ((opcodeLengthFixed.find? fun r => r.1 == b.toNat).map (·.2)).getD 1

/-- Raw bytes that are exactly one instruction: a defined first byte and the length it determines
(R90, R113, R119). -/
def codeWf : List Byte → Bool
  | [] => false
  | b :: rest => opcodeDefined b && decide (rest.length + 1 = opcodeLength b)

/-- Whether a conditional jump at `addr` can reach `target`: the target lies within -128..127 of the
address of the following instruction (30_encoding.md R123). -/
def jcondReaches (addr target : Word) : Bool :=
  let d := (target - (addr + 2)).toInt
  decide (-128 ≤ d) && decide (d ≤ 127)

/-- A range of a memory map lies inside the address space (20_memory.md R60, R73). -/
def Region.wf (r : Region) : Bool := decide (0 < r.size) && decide (r.base + r.size ≤ 65536)

/-- The canonical form of a list of cells: addresses strictly rising and inside the 65,536 addresses
of R60. A cell that is not listed holds no value, so no listed cell can equal it (log 4). -/
def cellsWf : List Host.Cell → Bool
  | [] => true
  | [(k, _)] => decide (k < 65536)
  | (k, _) :: (k', v') :: rest => decide (k < k') && cellsWf ((k', v') :: rest)

end Sys2Proof
end

