-- ==== Sys2Proof/Decode.lean ====
section
/-! DEFINITION. The decoder and, after it, the encoder (30_encoding.md). The decoder is the opcode
table: a list of rows with a mask, a pattern and a builder, tried in the table's order (R121). -/

namespace Sys2Proof

/-! ## Operand field codes -/

/-- `reg8` of a 2-bit field; code 00 names no register (R103). -/
def decodeReg8 (c : BitVec 2) : Option Reg8 :=
  match c.toNat with
  | 1 => some .a
  | 2 => some .b
  | 3 => some .c
  | _ => none

/-- `reg16` of a 2-bit field; code 11 names no register (R106). -/
def decodeReg16 (c : BitVec 2) : Option Reg16 :=
  match c.toNat with
  | 0 => some .bc
  | 1 => some .x
  | 2 => some .sp
  | _ => none

/-- `mem8` of a 2-bit field with the two bytes after the opcode (R104, R107, R108). -/
def decodeMem8 (c : BitVec 2) (b1 b2 : Byte) : Option Mem8 :=
  match c.toNat with
  | 0 => some (.addr (concat b2 b1))
  | 1 => some .atBC
  | 2 => some (.atX b1)
  | _ => none

/-- `op8` of a 3-bit field with the two bytes after the opcode (R102, R107 to R109). -/
def decodeOp8 (c : BitVec 3) (b1 b2 : Byte) : Option Op8 :=
  match c.toNat with
  | 0 => some (.mem (.addr (concat b2 b1)))
  | 1 => some (.reg .a)
  | 2 => some (.reg .b)
  | 3 => some (.reg .c)
  | 4 => some (.dat8 b1)
  | 5 => some (.mem .atBC)
  | 6 => some (.mem (.atX b1))
  | _ => none

/-- `op16` of a 2-bit field with the two bytes after the opcode; SP is 11 here and 10 in `reg16`
(R105, R106, R110, C7). -/
def decodeOp16 (c : BitVec 2) (b1 b2 : Byte) : Option Op16 :=
  match c.toNat with
  | 0 => some (.reg .bc)
  | 1 => some (.reg .x)
  | 2 => some (.dat16 (concat b2 b1))
  | _ => some (.reg .sp)

/-! ## The opcode table -/

/-- One row of opcode_table.json: a first byte `b` belongs to it when `b &&& mask = pattern` and
`build` finds no field with a code that selects nothing (R121). `build` takes the first byte and
the two bytes after it. -/
structure Row where
  mnemonic : String
  operands : String
  mask : Byte
  pattern : Byte
  build : Byte → Byte → Byte → Option Instr

/-- A row whose first byte is fully fixed and takes no operand byte (format IMPL of R91). -/
def rowImpl (mn ops : String) (pattern : Byte) (i : Instr) : Row :=
  ⟨mn, ops, 0xFF, pattern, fun _ _ _ => some i⟩

/-- A row of format REL8 or VEC8 (R91): one operand byte. -/
def rowByte (mn ops : String) (pattern : Byte) (mk : Byte → Instr) : Row :=
  ⟨mn, ops, 0xFF, pattern, fun _ b1 _ => some (mk b1)⟩

/-- A row of format ADDR16 (R91): two operand bytes, the low byte first (R64, R107). -/
def rowAddr (mn ops : String) (pattern : Byte) (mk : Word → Instr) : Row :=
  ⟨mn, ops, 0xFF, pattern, fun _ b1 b2 => some (mk (concat b2 b1))⟩

/-- A row of format REG16 (R91): reg16 in bits 1:0. -/
def rowReg16 (mn : String) (pattern : Byte) (mk : Reg16 → Instr) : Row :=
  ⟨mn, "reg16", 0xFC, pattern, fun b _ _ => (decodeReg16 (b.extractLsb' 0 2)).map mk⟩

/-- A row of format REG8 (R91): reg8 in bits 1:0. -/
def rowReg8 (mn : String) (pattern : Byte) (mk : Reg8 → Instr) : Row :=
  ⟨mn, "reg8", 0xFC, pattern, fun b _ _ => (decodeReg8 (b.extractLsb' 0 2)).map mk⟩

/-- A row of format ALU8 (R91, R168): op8 in bits 2:0. -/
def rowAlu8 (mn : String) (pattern : Byte) (mk : Op8 → Instr) : Row :=
  ⟨mn, "A, op8", 0xF8, pattern, fun b b1 b2 => (decodeOp8 (b.extractLsb' 0 3) b1 b2).map mk⟩

/-- Rows 0x00 to 0x20 of the opcode map (R114, R115). -/
def rowsControl : List Row :=
  [rowImpl "NOP" "" 0x00 .nop,
   rowImpl "POP" "AF" 0x01 .popAF,
   rowImpl "POP" "BC" 0x02 .popBC,
   rowImpl "POP" "X" 0x03 .popX,
   rowImpl "PUSH" "AF" 0x05 .pushAF,
   rowImpl "PUSH" "BC" 0x06 .pushBC,
   rowImpl "PUSH" "X" 0x07 .pushX,
   rowImpl "RET" "" 0x08 .ret,
   rowImpl "STC" "" 0x09 .stc,
   rowImpl "STI" "" 0x0A .sti,
   rowAddr "CALL" "addr" 0x0B .call,
   rowImpl "CLI" "" 0x0C .cli,
   rowImpl "CLC" "" 0x0D .clc,
   rowImpl "HLT" "" 0x0E .hlt,
   rowImpl "IN" "A, C" 0x0F .inAC,
   rowByte "INT" "vector" 0x10 .int,
   rowByte "JC" "addr" 0x11 .jc,
   rowAddr "JMP" "addr" 0x12 .jmpAddr,
   rowByte "JNC" "addr" 0x13 .jnc,
   rowByte "JNO" "addr" 0x14 .jno,
   rowByte "JNP" "addr" 0x15 .jnp,
   rowByte "JNS" "addr" 0x16 .jns,
   rowByte "JNZ" "addr" 0x17 .jnz,
   rowByte "JO" "addr" 0x18 .jo,
   rowByte "JP" "addr" 0x19 .jp,
   rowByte "JS" "addr" 0x1A .js,
   rowByte "JZ" "addr" 0x1B .jz,
   rowReg16 "JMP" 0x1C .jmpReg,
   rowImpl "OUT" "C, A" 0x20 .outCA]

/-- Rows 0x30 to 0x7F of the opcode map (R115, R116); `SAR A` stands before the row whose undefined
field code it occupies (R103, R121). -/
def rowsTransfer : List Row :=
  [rowReg16 "DEC" 0x30 .decReg16,
   rowReg16 "INC" 0x34 .incReg16,
   rowImpl "SAR" "A" 0x40 .sar,
   ⟨"MOV", "mem8, reg8", 0xF0, 0x40, fun b b1 b2 =>
      (decodeMem8 (b.extractLsb' 2 2) b1 b2).bind fun m =>
        (decodeReg8 (b.extractLsb' 0 2)).map fun r => .movMem8 m r⟩,
   ⟨"MOV", "reg16, op16", 0xF0, 0x50, fun b b1 b2 =>
      (decodeReg16 (b.extractLsb' 2 2)).bind fun r =>
        (decodeOp16 (b.extractLsb' 0 2) b1 b2).map fun s => .movReg16 r s⟩,
   ⟨"MOV", "reg8, op8", 0xE0, 0x60, fun b b1 b2 =>
      (decodeReg8 (b.extractLsb' 3 2)).bind fun r =>
        (decodeOp8 (b.extractLsb' 0 3) b1 b2).map fun s => .movReg8 r s⟩]

/-- Rows 0x80 to 0xFF of the opcode map (R117); `ROR A` (C1) and `ROL A` stand before the rows whose
undefined field code they occupy (R103, R121). -/
def rowsAlu : List Row :=
  [rowAlu8 "CMP" 0x80 .cmp,
   rowAlu8 "ADD" 0x88 .add,
   rowAlu8 "ADC" 0x90 .adc,
   rowAlu8 "AND" 0x98 .and,
   rowImpl "ROR" "A" 0xA0 .ror,
   rowReg8 "DEC" 0xA0 .decReg8,
   rowImpl "ROL" "A" 0xA8 .rol,
   rowReg8 "INC" 0xA8 .incReg8,
   rowImpl "NEG" "A" 0xB0 .neg,
   rowImpl "NOT" "A" 0xB8 .not,
   rowAlu8 "OR" 0xC0 .or,
   rowImpl "RCL" "A" 0xC8 .rcl,
   rowImpl "RCR" "A" 0xD0 .rcr,
   rowAlu8 "SBB" 0xD8 .sbb,
   rowImpl "SHL" "A" 0xE0 .shl,
   rowImpl "SHR" "A" 0xE8 .shr,
   rowAlu8 "SUB" 0xF0 .sub,
   rowAlu8 "XOR" 0xF8 .xor]

/-- The 53 rows of opcode_table.json. -/
def opcodeTable : List Row := rowsControl ++ rowsTransfer ++ rowsAlu

/-- What one row makes of three bytes of memory (R121). -/
def Row.decode (r : Row) (b0 b1 b2 : Byte) : Option Instr :=
  if b0 &&& r.mask = r.pattern then r.build b0 b1 b2 else none

/-! ## The decoder -/

/-- The instruction whose first byte is `b0`, with the two bytes after it in memory, of which it may
use none, one or two; none when the first byte selects no instruction (R90, R119). -/
def decodeBytes (b0 b1 b2 : Byte) : Option Instr :=
  opcodeTable.findSome? fun r => r.decode b0 b1 b2

/-- Why a list of bytes does not begin with an instruction. -/
inductive DecodeError where
  /-- the first byte selects no instruction (R119) -/
  | illegalOpcode (b : Byte)
  /-- the list ends before the instruction does -/
  | truncated
  deriving DecidableEq, Repr

/-- Reads one instruction from a list of bytes and answers it with the bytes that follow it. Total:
what is not an instruction is rejected by name. -/
def decode : List Byte → Except DecodeError (Instr × List Byte)
  | [] => .error .truncated
  | b0 :: rest =>
    match decodeBytes b0 (rest.getD 0 0) (rest.getD 1 0) with
    | none => .error (.illegalOpcode b0)
    | some i =>
      if i.length ≤ rest.length + 1 then .ok (i, (b0 :: rest).drop i.length) else .error .truncated

/-- The instruction read from an instruction whose bits are `w`, bit 0 the least significant bit of
its first byte; every bit from `nbits` on is 0. -/
def decodeTableWord (nbits w : Nat) : Option Instr :=
  let v := w % 2 ^ nbits
  decodeBytes (byteAt v 0) (byteAt v 1) (byteAt v 2)

/-! ## The encoder -/

/-- R103. -/
def Reg8.code : Reg8 → BitVec 2
  | .a => 0b01
  | .b => 0b10
  | .c => 0b11

/-- R106. -/
def Reg16.code : Reg16 → BitVec 2
  | .bc => 0b00
  | .x => 0b01
  | .sp => 0b10

/-- R104. -/
def Mem8.code : Mem8 → BitVec 2
  | .addr _ => 0b00
  | .atBC => 0b01
  | .atX _ => 0b10

/-- R102. -/
def Op8.code : Op8 → BitVec 3
  | .mem (.addr _) => 0b000
  | .reg .a => 0b001
  | .reg .b => 0b010
  | .reg .c => 0b011
  | .dat8 _ => 0b100
  | .mem .atBC => 0b101
  | .mem (.atX _) => 0b110

/-- R105. -/
def Op16.code : Op16 → BitVec 2
  | .reg .bc => 0b00
  | .reg .x => 0b01
  | .dat16 _ => 0b10
  | .reg .sp => 0b11

/-- A 16-bit operand in memory, the low byte first (R63 to R65). -/
def wordBytes (v : Word) : List Byte := [lo v, hi v]

/-- The operand bytes of a memory mode (R104, R107, R108). -/
def Mem8.operandBytes : Mem8 → List Byte
  | .addr a => wordBytes a
  | .atBC => []
  | .atX d => [d]

/-- The operand bytes of an `op8` (R102, R107 to R109). -/
def Op8.operandBytes : Op8 → List Byte
  | .mem m => m.operandBytes
  | .reg _ => []
  | .dat8 d => [d]

/-- The operand bytes of an `op16` (R105, R110). -/
def Op16.operandBytes : Op16 → List Byte
  | .reg _ => []
  | .dat16 d => wordBytes d

/-- The bytes of an instruction in memory order (30_encoding.md R91 and the opcode map R114 to
R117). -/
def encode : Instr → List Byte
  | .nop => [0x00]
  | .popAF => [0x01]
  | .popBC => [0x02]
  | .popX => [0x03]
  | .pushAF => [0x05]
  | .pushBC => [0x06]
  | .pushX => [0x07]
  | .ret => [0x08]
  | .stc => [0x09]
  | .sti => [0x0A]
  | .call a => 0x0B :: wordBytes a
  | .cli => [0x0C]
  | .clc => [0x0D]
  | .hlt => [0x0E]
  | .inAC => [0x0F]
  | .int v => [0x10, v]
  | .jc d => [0x11, d]
  | .jmpAddr a => 0x12 :: wordBytes a
  | .jnc d => [0x13, d]
  | .jno d => [0x14, d]
  | .jnp d => [0x15, d]
  | .jns d => [0x16, d]
  | .jnz d => [0x17, d]
  | .jo d => [0x18, d]
  | .jp d => [0x19, d]
  | .js d => [0x1A, d]
  | .jz d => [0x1B, d]
  | .jmpReg r => [0b000111#6 ++ r.code]
  | .outCA => [0x20]
  | .decReg16 r => [0b001100#6 ++ r.code]
  | .incReg16 r => [0b001101#6 ++ r.code]
  | .sar => [0x40]
  | .movMem8 m r => (0b0100#4 ++ m.code ++ r.code) :: m.operandBytes
  | .movReg16 r s => (0b0101#4 ++ r.code ++ s.code) :: s.operandBytes
  | .movReg8 r s => (0b011#3 ++ r.code ++ s.code) :: s.operandBytes
  | .cmp s => (0b10000#5 ++ s.code) :: s.operandBytes
  | .add s => (0b10001#5 ++ s.code) :: s.operandBytes
  | .adc s => (0b10010#5 ++ s.code) :: s.operandBytes
  | .and s => (0b10011#5 ++ s.code) :: s.operandBytes
  | .ror => [0xA0]
  | .decReg8 r => [0b101000#6 ++ r.code]
  | .rol => [0xA8]
  | .incReg8 r => [0b101010#6 ++ r.code]
  | .neg => [0xB0]
  | .not => [0xB8]
  | .or s => (0b11000#5 ++ s.code) :: s.operandBytes
  | .rcl => [0xC8]
  | .rcr => [0xD0]
  | .sbb s => (0b11011#5 ++ s.code) :: s.operandBytes
  | .shl => [0xE0]
  | .shr => [0xE8]
  | .sub s => (0b11110#5 ++ s.code) :: s.operandBytes
  | .xor s => (0b11111#5 ++ s.code) :: s.operandBytes

/-- The displacement an assembler computes for a conditional jump at `addr` written with its target
(30_encoding.md R123); none when the target is out of reach. -/
def jcondRel8 (addr target : Word) : Option Byte :=
  if jcondReaches addr target then some (lo (target - (addr + 2))) else none

end Sys2Proof
end

