-- ==== Sys2Proof/Machine/State.lean ====
section
/-! DEFINITION. The state of the machine (10_state.md), plain data, with the reasons a step can stop
and the state after reset. -/

namespace Sys2Proof.Machine

/-- The six flags of register F (10_state.md R25), named as the source names them. Bits 7 and 6 of F
are not state (R25, D5). -/
structure Flags where
  /-- carry, bit 0 (R27) -/
  fc : Bool
  /-- zero, bit 1 (R28) -/
  fz : Bool
  /-- overflow, bit 2 (R29) -/
  fo : Bool
  /-- sign, bit 3 (R30) -/
  fs : Bool
  /-- parity, bit 4: 1 for an even number of ones (R31) -/
  fp : Bool
  /-- interrupt, bit 5 (R32) -/
  fi : Bool
  deriving DecidableEq, Repr

/-- One event of the port space, in program order (20_memory.md R61, 70_reset_and_hazards.md R374). -/
inductive PortEvent where
  /-- `PortRead(port)` returned `value` (00_scope.md R11) -/
  | read (port value : Byte)
  /-- `PortWrite(port, value)` (R11) -/
  | write (port value : Byte)
  deriving DecidableEq, Repr

/-- Why the machine stops. -/
inductive Fault where
  /-- Raised by the step, when the first byte of an instruction selects none (30_encoding.md R119,
  00_scope.md R13). It is the model's own fault, not an event of the hardware. Safe: nothing is
  claimed of what the hardware does then (D4, log 5). -/
  | illegalOpcode (b : Byte)
  deriving DecidableEq, Repr

/-- Why the model gives an instruction no meaning. -/
inductive Refusal where
  /-- Raised by an arm of `exec` whose instruction has no meaning yet; no arm does. Safe: nothing is
  claimed of such an instruction. -/
  | notModelled (mnemonic : String)
  deriving DecidableEq, Repr

/-- The 65,536 cells of 20_memory.md R60 as a list of (address, byte) pairs in the one canonical form
`cellsWf`. An address that is not listed holds no value yet. -/
abbrev Memory := List Host.Cell

/-- The state. The fields from `params` on are the model's own, not the spec's (INVENTORY.md). -/
structure State where
  /-- accumulator (R20) -/
  a : Byte
  /-- high byte of BC (R20, R21) -/
  b : Byte
  /-- low byte of BC, and the port number (R20, R21) -/
  c : Byte
  /-- register F (R25) -/
  flags : Flags
  /-- index register (R22) -/
  x : Word
  /-- stack pointer (R23) -/
  sp : Word
  /-- program counter (R24) -/
  pc : Word
  /-- the halt state (R36) -/
  halted : Bool
  /-- memory (R43, 20_memory.md R60) -/
  mem : Memory
  /-- the parameters of 00_scope.md R6, which no step changes (log 23) -/
  params : Params
  /-- what the environment presents at this boundary (60_exceptions.md R336, log 7) -/
  irq : Option Byte
  /-- the number of instruction boundaries passed: the position in the run (log 21) -/
  tick : Nat
  /-- the ordered log of port events, oldest first (R374, log 13) -/
  portLog : List PortEvent
  /-- clock cycles so far, a ghost variable (70_reset_and_hazards.md R380, log 22) -/
  cycles : Nat
  deriving DecidableEq, Repr

/-- The answer of a meaning and of a step. -/
abbrev Result := Host.Outcome State Fault Refusal

/-- The reset event (70_reset_and_hazards.md R370): PC is RESET_PC, the halt state ends and memory is
the host's image. `u` supplies every unspecified value, so that a claim about all `u` is a claim
about any value of them (R372, treatment (a)). -/
def State.afterReset (u : State) (image : Memory) : State :=
  { u with pc := u.params.resetPc, halted := false, mem := image }

/-- The values the model names where the spec gives none (log 1, DESIGN CHOICE, unsafe): zero in every
register and flag, F.I = 0 among them; the parameters at their defaults. The request at the first
boundary is the oracle's (log 7). -/
def State.unspecified : State :=
  { a := 0, b := 0, c := 0,
    flags := { fc := false, fz := false, fo := false, fs := false, fp := false, fi := false },
    x := 0, sp := 0, pc := 0, halted := false, mem := [], params := Params.default,
    irq := Config.irqOracle 0, tick := 0, portLog := [], cycles := 0 }

/-- The machine right after reset, with no image loaded (R45, R370, R371). -/
def State.reset : State := State.unspecified.afterReset []

end Sys2Proof.Machine
end

