-- ==== Sys2Proof/Machine/Flags.lean ====
section
/-! DEFINITION. The flag computations of 10_state.md section 3 and of 42_alu_unary.md R210. Operands
are converted to integers, the exact result is computed, and it is narrowed at the end. -/

namespace Sys2Proof.Machine

/-- An 8-bit result with the five arithmetic flags it gives. -/
structure AluOut where
  r : Byte
  c : Bool
  z : Bool
  o : Bool
  s : Bool
  p : Bool
  deriving DecidableEq, Repr

/-- Flag Z of a result (R28). -/
def flagZ (r : Byte) : Bool := decide (r = 0)

/-- Flag S of a result (R30). -/
def flagS (r : Byte) : Bool := r.msb

/-- Flag P of a result: 1 for an even number of ones (R31). -/
def flagP (r : Byte) : Bool := decide (popcount r % 2 = 0)

/-- A result with C and O given, and Z, S, P taken from it: `zsp(r)` of R40. -/
def withZsp (r : Byte) (c o : Bool) : AluOut :=
  { r := r, c := c, z := flagZ r, o := o, s := flagS r, p := flagP r }

/-- `add8(a, b, cin)` (R38): C is the carry out of bit 7, O that carry exclusive-or the carry out of
bit 6 (R29). -/
def add8 (a b : Byte) (cin : Bool) : AluOut :=
  let sum := a.toNat + b.toNat + cin.toNat
  let c7 := decide (256 ≤ sum)
  let c6 := decide (128 ≤ a.toNat % 128 + b.toNat % 128 + cin.toNat)
  withZsp (BitVec.ofNat 8 sum) c7 (c6 ^^ c7)

/-- `sub8(a, b, bin)` (R39): C is the borrow out of bit 7, O that borrow exclusive-or the borrow out
of bit 6, both of the exact difference (D15, C5). -/
def sub8 (a b : Byte) (bin : Bool) : AluOut :=
  let diff : Int := (a.toNat : Int) - (b.toNat : Int) - (bin.toNat : Int)
  let b7 := decide (diff < 0)
  let b6 := decide (((a.toNat % 128 : Nat) : Int) - ((b.toNat % 128 : Nat) : Int) - (bin.toNat : Int) < 0)
  withZsp (BitVec.ofInt 8 diff) b7 (b6 ^^ b7)

/-- `logic8(r)` (R40): C and O are 0. -/
def logic8 (r : Byte) : AluOut := withZsp r false false

/-- A shift or rotation of `old` to `r` with outgoing bit `out`: C is the bit that left, O is 1 when
bit 7 changed, Z, S, P are those of `r` alone (R29, R210, D16). -/
def shift8 (old r : Byte) (out : Bool) : AluOut := withZsp r out (old.msb ^^ r.msb)

/-- One bit in the position `k` of a byte. -/
def bitAt (k : Nat) (v : Bool) : Byte := if v then (1 : Byte) <<< k else 0

/-- `ROL` (R204). -/
def rol8 (a : Byte) : AluOut := shift8 a ((a <<< 1) ||| bitAt 0 a.msb) a.msb

/-- `ROR` (R205). -/
def ror8 (a : Byte) : AluOut := shift8 a ((a >>> 1) ||| bitAt 7 (a.getLsbD 0)) (a.getLsbD 0)

/-- `RCL` (R206). -/
def rcl8 (a : Byte) (cin : Bool) : AluOut := shift8 a ((a <<< 1) ||| bitAt 0 cin) a.msb

/-- `RCR` (R207). -/
def rcr8 (a : Byte) (cin : Bool) : AluOut := shift8 a ((a >>> 1) ||| bitAt 7 cin) (a.getLsbD 0)

/-- `SHL` (R208). -/
def shl8 (a : Byte) : AluOut := shift8 a (a <<< 1) a.msb

/-- `SHR` (R209): its S is 0, as the flag matrix of R33 prints. -/
def shr8 (a : Byte) : AluOut := { shift8 a (a >>> 1) (a.getLsbD 0) with s := false }

/-- `SAR` (R211): its O is 0, as the flag matrix of R33 prints. -/
def sar8 (a : Byte) : AluOut :=
  { shift8 a ((a >>> 1) ||| (a &&& 0x80)) (a.getLsbD 0) with o := false }

/-- C, Z, O, S, P from a result; I is kept (R33). -/
def Flags.setCzosp (f : Flags) (u : AluOut) : Flags :=
  { f with fc := u.c, fz := u.z, fo := u.o, fs := u.s, fp := u.p }

/-- Z, O, S, P from a result; C and I are kept: `INC reg8` and `DEC reg8` (R33). -/
def Flags.setZosp (f : Flags) (u : AluOut) : Flags :=
  { f with fz := u.z, fo := u.o, fs := u.s, fp := u.p }

/-- The byte of F, with `unused` in the bits 7 and 6 that are not state (R25). -/
def Flags.toByte (f : Flags) (unused : BitVec 2) : Byte :=
  unused ++ BitVec.ofBool f.fi ++ BitVec.ofBool f.fp ++ BitVec.ofBool f.fs ++ BitVec.ofBool f.fo
    ++ BitVec.ofBool f.fz ++ BitVec.ofBool f.fc

/-- The flags in a byte of F; bits 7 and 6 are discarded (R25, 40_data_transfer.md R140). -/
def Flags.ofByte (v : Byte) : Flags :=
  { fc := v.getLsbD 0, fz := v.getLsbD 1, fo := v.getLsbD 2, fs := v.getLsbD 3, fp := v.getLsbD 4,
    fi := v.getLsbD 5 }

end Sys2Proof.Machine
end

