-- ==== Sys2Proof/Machine/Datapath.lean ====
section
/-! DEFINITION. The hardware tables of 46_alu_microops.md sections 1 and 2 and the timing of
70_reset_and_hazards.md section 4: register control, the ALU, the cycles of the basic operations and of the
instructions. The meanings do not use them (46, opening); the step keeps the cycle total as a ghost
variable (R380, log 22). -/

namespace Sys2Proof.Machine

/-! ## Register control -/

/-- A clocked register (R290): it changes only on a rising edge; then control `LD/CNT` = 0 loads the
parallel input, 1 counts, up for `UP/DWN` = 0 and down for 1. The count wraps (D3). -/
def clockRegister {w : Nat} (risingEdge cnt dwn : Bool) (input value : BitVec w) : BitVec w :=
  if risingEdge then
    if cnt then (if dwn then value - 1 else value + 1) else input
  else value

/-! ## The ALU -/

/-- The result of the ALU for a function code `alu3 alu2 alu1 alu0` (R291, R292); none for the code
0001, which the source calls unused (93 U3). `fc` is the carry input. -/
def alu (code : BitVec 4) (ent1 ent2 : Byte) (fc : Bool) : Option Byte :=
  let carry : Byte := (BitVec.ofBool fc).setWidth 8
  match code.toNat with
  | 0b0000 => some ent2
  | 0b0010 => some (ent1 + ent2 + carry)
  | 0b0011 => some (ent1 &&& ent2)
  | 0b0100 => some (ent2 - 1)
  | 0b0101 => some (ent2 + 1)
  | 0b0110 => some (-ent1)
  | 0b0111 => some (~~~ent1)
  | 0b1000 => some (ent1 ||| ent2)
  | 0b1001 => some ((ent1 <<< 1) ||| carry)
  | 0b1010 => some ((ent1 >>> 1) ||| (carry <<< 7))
  | 0b1011 => some (ent1 + -(ent2 + carry))
  | 0b1100 => some (ent1.rotateLeft 1)
  | 0b1101 => some (ent1.rotateRight 1)
  | 0b1110 => some (ent1.sshiftRight 1)
  | 0b1111 => some (ent1 ^^^ ent2)
  | _ => none

/-- The result with the flags C, Z, O, S, P that the ALU gives for a function code (R291, 10_state.md R27 to
R31); none for the code 0001, which the source calls unused (93 U3). When ENT2 passes unchanged, Z, S and P are
those of ENT2, and C and O, which R27 and R29 do not give there, are free values (log 35). -/
def aluOut (code : BitVec 4) (ent1 ent2 : Byte) (fc : Bool) : Option AluOut :=
  match code.toNat with
  | 0b0000 =>
    some (withZsp ent2 (Config.passFlags ent1 ent2 fc).1 (Config.passFlags ent1 ent2 fc).2)
  | 0b0010 => some (add8 ent1 ent2 fc)
  | 0b0011 => some (logic8 (ent1 &&& ent2))
  | 0b0100 => some (sub8 ent2 1 false)
  | 0b0101 => some (add8 ent2 1 false)
  | 0b0110 => some (sub8 0 ent1 false)
  | 0b0111 => some (logic8 (ent1 ^^^ 0xFF))
  | 0b1000 => some (logic8 (ent1 ||| ent2))
  | 0b1001 => some (rcl8 ent1 fc)
  | 0b1010 => some (rcr8 ent1 fc)
  | 0b1011 => some (sub8 ent1 ent2 fc)
  | 0b1100 => some (rol8 ent1)
  | 0b1101 => some (ror8 ent1)
  | 0b1110 => some (sar8 ent1)
  | 0b1111 => some (logic8 (ent1 ^^^ ent2))
  | _ => none

/-! ## The basic operations -/

/-- The basic operations (R295). -/
inductive BasicOp where
  | f | fAlu | fFlag | fNoinc | r | rAlu | w | ip | op | ri | i8 | iAlu | iT16 | iId16 | i2dir1
  deriving DecidableEq, Repr

/-- Clock cycles of a basic operation (R295, 70_reset_and_hazards.md R384). -/
def BasicOp.cycles : BasicOp → Nat
  | .f | .fAlu | .fFlag => 5
  | .fNoinc | .r | .rAlu | .w | .ip | .op => 3
  | .ri | .i8 | .iAlu | .iT16 | .iId16 | .i2dir1 => 2

/-- Whether a conditional jump is taken (43_control_transfer.md R230 to R240); false for every other
instruction. -/
def Instr.taken (f : Flags) : Instr → Bool
  | .jc _ => f.fc
  | .jnc _ => !f.fc
  | .jo _ => f.fo
  | .jno _ => !f.fo
  | .jp _ => f.fp
  | .jnp _ => !f.fp
  | .js _ => f.fs
  | .jns _ => !f.fs
  | .jz _ => f.fz
  | .jnz _ => !f.fz
  | .nop | .popAF | .popBC | .popX | .pushAF | .pushBC | .pushX | .ret | .stc | .sti | .call _
  | .cli | .clc | .hlt | .inAC | .int _ | .jmpAddr _ | .jmpReg _ | .outCA | .decReg16 _
  | .incReg16 _ | .sar | .movMem8 _ _ | .movReg16 _ _ | .movReg8 _ _ | .cmp _ | .add _ | .adc _
  | .and _ | .ror | .decReg8 _ | .rol | .incReg8 _ | .neg | .not | .or _ | .rcl | .rcr | .sbb _
  | .shl | .shr | .sub _ | .xor _ => false

/-! ## Cycle counts -/

/-- Column B of a memory mode (70_reset_and_hazards.md R382). -/
def Mem8.extraCycles : Mem8 → Nat
  | .addr _ => 11
  | .atBC => 1
  | .atX _ => 6

/-- Column B of an `op8` (R382). -/
def Op8.extraCycles : Op8 → Nat
  | .mem m => Mem8.extraCycles m
  | .reg _ => 0
  | .dat8 _ => 3

/-- Column B of an `op16` (R382). -/
def Op16.extraCycles : Op16 → Nat
  | .reg _ => 2
  | .dat16 _ => 8

/-- Clock cycles of an instruction, `f` the flags before it (R381 to R383). -/
def Instr.cycles (f : Flags) (i : Instr) : Nat :=
  match i with
  | .adc s | .add s | .and s | .cmp s | .or s | .sbb s | .sub s | .xor s => 7 + Op8.extraCycles s
  | .movReg8 _ s => 7 + Op8.extraCycles s
  | .movMem8 m _ => 7 + Mem8.extraCycles m
  | .movReg16 _ s => 7 + Op16.extraCycles s
  | .call _ => 27
  | .clc | .cli | .stc | .sti | .nop | .jmpReg _ => 5
  | .decReg16 _ | .decReg8 _ | .incReg16 _ | .incReg8 _ => 7
  | .neg | .not | .rcl | .rcr | .rol | .ror | .sar | .shl | .shr => 7
  | .hlt => 3
  | .inAC | .outCA => 8
  | .int _ => 30
  | .jc _ | .jnc _ | .jo _ | .jno _ | .jp _ | .jnp _ | .js _ | .jns _ | .jz _ | .jnz _ =>
    if Instr.taken f i then 12 else 7
  | .jmpAddr _ | .popAF | .popBC | .popX | .pushAF | .pushBC | .pushX => 15
  | .ret => 13

end Sys2Proof.Machine
end

