-- ==== Sys2Proof/Machine/Ops.lean ====
section
/-! DEFINITION. The named operations over memory, registers, ports and the stack, and the transfer
through the vector table that `INT` and a hardware interrupt share, with the return from it. -/

namespace Sys2Proof.Machine

/-! ## Memory as a list of cells -/

/-- What the list holds at an address; none when the address is not listed. -/
def Memory.read? : Memory → Nat → Option Byte
  | [], _ => none
  | (k, v) :: rest, a => if a = k then some v else Memory.read? rest a

/-- The list with `v` at `a`, addresses kept rising. -/
def Memory.write : Memory → Nat → Byte → Memory
  | [], a, v => [(a, v)]
  | (k, w) :: rest, a, v =>
    if a < k then (a, v) :: (k, w) :: rest
    else if a = k then (a, v) :: rest
    else (k, w) :: Memory.write rest a v

/-- The canonical form holds: addresses strictly rising, all below 65,536 (R60). -/
abbrev Memory.wf (m : Memory) : Bool := cellsWf m

/-- Whether a range covers an address. -/
def Region.covers (r : Region) (a : Word) : Bool :=
  decide (r.base ≤ a.toNat) && decide (a.toNat < r.base + r.size)

/-- The kind of an address: none for RAM, which is every address of the default map (20_memory.md R73,
D13). The first range of the map that covers the address decides. -/
def regionKind (map : List Region) (a : Word) : Option RegionKind :=
  (map.find? fun r => Region.covers r a).map (·.kind)

/-- Whether an address is RAM on this platform (R73). -/
def State.isRam (s : State) (a : Word) : Bool := decide (regionKind s.params.memMap a = none)

/-- Whether an address has no cell on this platform (R73). -/
def State.isAbsent (s : State) (a : Word) : Bool :=
  decide (regionKind s.params.memMap a = some .absent)

/-- `MemRead(a, 1)` (00_scope.md R10, 20_memory.md R72): the byte last written or loaded; where there
is none, an unspecified byte; where there is no cell, whatever the platform returns (R73). -/
def State.readByte (s : State) (a : Word) : Byte :=
  if s.isAbsent a then Config.absentByte s.tick a
  else (Memory.read? s.mem a.toNat).getD (Config.unspecifiedByte a)

/-- `MemWrite(a, 1, v)` (R10, R72): that one cell changes. A store to ROM or to an absent cell is
ignored (R73, C10). -/
def State.writeByte (s : State) (a : Word) (v : Byte) : State :=
  { s with mem := if s.isRam a then Memory.write s.mem a.toNat v else s.mem }

/-! ## Registers -/

/-- `x[reg8]` (00_scope.md R9, 40_data_transfer.md R136). -/
def State.reg8 (s : State) : Reg8 → Byte
  | .a => s.a
  | .b => s.b
  | .c => s.c

/-- `x[reg8] <- v` (R9). -/
def State.setReg8 (s : State) (r : Reg8) (v : Byte) : State :=
  match r with
  | .a => { s with a := v }
  | .b => { s with b := v }
  | .c => { s with c := v }

/-- BC, the pair of B and C (10_state.md R21). -/
def State.bc (s : State) : Word := concat s.b s.c

/-- `x[reg16]` (R9, R136). -/
def State.reg16 (s : State) : Reg16 → Word
  | .bc => s.bc
  | .x => s.x
  | .sp => s.sp

/-- `x[reg16] <- v`; a write of BC writes B and C (R9, R21). -/
def State.setReg16 (s : State) (r : Reg16) (v : Word) : State :=
  match r with
  | .bc => { s with b := hi v, c := lo v }
  | .x => { s with x := v }
  | .sp => { s with sp := v }

/-- A and the flags C, Z, O, S, P from a result (41_alu_binary.md, 42_alu_unary.md). -/
def State.setAlu (s : State) (u : AluOut) : State :=
  { s with a := u.r, flags := s.flags.setCzosp u }

/-! ## Stack -/

/-- A push of two bytes: the high byte first, at SP-1, then the low byte at SP-2 (20_memory.md R66). -/
def State.push (s : State) (h l : Byte) : State :=
  let s1 := { s with sp := s.sp - 1 }
  let s2 := s1.writeByte s1.sp h
  let s3 := { s2 with sp := s2.sp - 1 }
  s3.writeByte s3.sp l

/-- `push16(v)` (R66). -/
def State.push16 (s : State) (v : Word) : State := s.push (hi v) (lo v)

/-- The low byte a pop reads, at SP (20_memory.md R67). -/
def State.popLow (s : State) : Byte := s.readByte s.sp

/-- The high byte a pop reads, at SP+1 (R67). -/
def State.popHigh (s : State) : Byte := s.readByte (s.sp + 1)

/-- SP after a pop (R67). -/
def State.dropPair (s : State) : State := { s with sp := s.sp + 2 }

/-! ## Ports -/

/-- `PortRead(p)` (00_scope.md R11, 20_memory.md R61): the environment's answer, free, and the log
with the event. -/
def State.portRead (s : State) (p : Byte) : Byte × State :=
  let v := Config.portOracle s.tick p
  (v, { s with portLog := s.portLog ++ [.read p v] })

/-- `PortWrite(p, v)` (R11, R61): an event recorded in order. -/
def State.portWrite (s : State) (p v : Byte) : State :=
  { s with portLog := s.portLog ++ [.write p v] }

/-! ## The vector table -/

/-- The address `2*V` of entry V (20_memory.md R68, 60_exceptions.md R334; V unsigned, D17). -/
def vectorAddress (v : Byte) : Word := BitVec.ofNat 16 (2 * v.toNat)

/-- The handler address in entry V: low byte at `2*V`, high byte at `2*V + 1` (R68). -/
def State.vectorEntry (s : State) (v : Byte) : Word :=
  concat (s.readByte (vectorAddress v + 1)) (s.readByte (vectorAddress v))

/-- What `INT V` and the entry of a hardware interrupt share: PC is pushed, then PC is loaded from
entry V of the table (43_control_transfer.md R245, 60_exceptions.md R339). -/
def State.takeVector (s : State) (v : Byte) : State :=
  let s1 := s.push16 s.pc
  { s1 with pc := s1.vectorEntry v }

/-- `hw_interrupt_entry(V)` with the end of the halt state (60_exceptions.md R332, R339, R341). F.I is
cleared only when the parameter HWINT_CLEARS_FI says so (D9). -/
def State.hwInterruptEntry (s : State) (v : Byte) : State :=
  let s1 := s.takeVector v
  { s1 with
    halted := false
    flags := if s1.params.hwintClearsFi then { s1.flags with fi := false } else s1.flags }

/-- The return from a call, an `INT` or a hardware interrupt: PC is popped and nothing else changes
(60_exceptions.md R344, 43_control_transfer.md R244). -/
def State.returnPop (s : State) : State :=
  { s.dropPair with pc := concat s.popHigh s.popLow }

end Sys2Proof.Machine
end

