-- ==== Sys2Proof/Machine/Operands.lean ====
section
/-! DEFINITION. The operand forms (30_encoding.md section 2, 40_data_transfer.md section 1). The operand
bytes were fetched with the instruction, before any register is written (20_memory.md R70). -/

namespace Sys2Proof.Machine

/-- The effective address of a memory mode, modulo 65,536 (30_encoding.md R112, 40_data_transfer.md
R134, 20_memory.md R74). No base register changes. -/
def State.ea (s : State) : Mem8 → Word
  | .addr a => a
  | .atBC => s.bc
  | .atX d => s.x + sext16 d

/-- `read_op8` (40_data_transfer.md R133). -/
def State.readOp8 (s : State) : Op8 → Byte
  | .mem m => s.readByte (s.ea m)
  | .reg r => s.reg8 r
  | .dat8 d => d

/-- `read_op16` (40_data_transfer.md R135). -/
def State.readOp16 (s : State) : Op16 → Word
  | .reg r => s.reg16 r
  | .dat16 d => d

end Sys2Proof.Machine
end

