-- ==== Sys2Proof/Machine/BasicOps.lean ====
section
/-! DEFINITION. The basic operations of 46_alu_microops.md sections 3 and 4: what each one transfers, and the
sequence of each instruction and of the entry of a hardware interrupt. They add no behaviour (46, opening):
the meanings do not use them, and a statement says that they carry the meanings out. CO and DIR exist only
here (10_state.md R34, R35). -/

namespace Sys2Proof.Machine

/-! ## The registers of the datapath -/

/-- The machine with the two internal registers CO (R34) and DIR (R35). -/
structure Datapath where
  s : State
  co : Byte
  dir : Word
  deriving DecidableEq, Repr

/-- The bytes that a transfer moves besides A and the cells: F, B and C as halves of BC, and the halves of
X, SP and PC (R295). -/
inductive Half where
  | f | b | c | xl | xh | spl | sph | pcl | pch
  deriving DecidableEq, Repr

/-- The content of a half; bits 7 and 6 of F are a free value (10_state.md R25, log 6). -/
def State.half (s : State) : Half → Byte
  | .f => s.flags.toByte (Config.unusedFBits s.tick)
  | .b => s.b
  | .c => s.c
  | .xl => lo s.x
  | .xh => hi s.x
  | .spl => lo s.sp
  | .sph => hi s.sp
  | .pcl => lo s.pc
  | .pch => hi s.pc

/-- A half is written, the other half of its pair kept. -/
def State.setHalf (s : State) (h : Half) (v : Byte) : State :=
  match h with
  | .f => { s with flags := Flags.ofByte v }
  | .b => { s with b := v }
  | .c => { s with c := v }
  | .xl => { s with x := concat (hi s.x) v }
  | .xh => { s with x := concat v (lo s.x) }
  | .spl => { s with sp := concat (hi s.sp) v }
  | .sph => { s with sp := concat v (lo s.sp) }
  | .pcl => { s with pc := concat (hi s.pc) v }
  | .pch => { s with pc := concat v (lo s.pc) }

/-- The low half of a `reg16`, `reg16l` (R295). -/
def Reg16.low : Reg16 → Half
  | .bc => .c
  | .x => .xl
  | .sp => .spl

/-- The high half of a `reg16`, `reg16h` (R295). -/
def Reg16.high : Reg16 → Half
  | .bc => .b
  | .x => .xh
  | .sp => .sph

/-- A register counts by one, up or down (R290). -/
def count {w : Nat} (down : Bool) (value : BitVec w) : BitVec w := clockRegister true true down 0 value

/-! ## The transfers -/

/-- The cell that `mem8` stands for in a transfer: `(DIR)`, `(BC)` or `(X+DIR_l)` (R295). -/
inductive CellAt where
  | dir | bc | xDirL
  deriving DecidableEq, Repr

/-- What becomes of a byte that passes through the ALU (R295, rows of F_alu, R_alu and I_alu). -/
inductive AluUse where
  /-- `A - byte → Act. Flags` -/
  | cmp
  /-- `A oper2 byte → A`, by its function code (R292) -/
  | oper2 (code : BitVec 4)
  /-- `byte → reg8` -/
  | move (r : Reg8)
  deriving DecidableEq, Repr

/-- The transfers of R295, in its order. -/
inductive Transfer where
  /-- F: `(PC)→CO; PC++` -/
  | fetchCode
  /-- F: `(PC)→DIR_l; PC++` -/
  | fetchDirL
  /-- F: `(PC)→DIR_h; PC++` -/
  | fetchDirH
  /-- F: `(PC)→X_l, X_h, SP_l o SP_h; PC++` -/
  | fetchHalf (h : Half)
  /-- F_alu: `(PC)` through the ALU; `PC++` -/
  | fetchAlu (u : AluUse)
  /-- F_flag: `(PC)→CO; PC++; v→F_C` -/
  | fetchCodeC (v : Bool)
  /-- F_flag: `(PC)→CO; PC++; v→F_I` -/
  | fetchCodeI (v : Bool)
  /-- F_noinc: `(PC)→CO` -/
  | fetchCodeNoinc
  /-- F_noinc: `(PC)→DIR_h` -/
  | fetchDirHNoinc
  /-- R: `(SP)→F, X_l, X_h, PC_l o PC_h` -/
  | readStack (h : Half)
  /-- R: `(DIR)→PC_l ó PC_h` -/
  | readEntry (h : Half)
  /-- R_alu: `mem8` through the ALU -/
  | readAlu (m : CellAt) (u : AluUse)
  /-- R_alu: `(SP)→reg8` -/
  | readStackAlu (r : Reg8)
  /-- W: `reg8→mem8` -/
  | write (m : CellAt) (r : Reg8)
  /-- W: `reg8→(SP)` -/
  | writeStackReg8 (r : Reg8)
  /-- W: `F, X_l, X_h, PC_l o PC_h→(SP)` -/
  | writeStack (h : Half)
  /-- IP: `(puerto C)→A` -/
  | inPort
  /-- OP: `A→(puerto C)` -/
  | outPort
  /-- RI: `Vector→DIR_l` -/
  | requestVector (v : Byte)
  /-- I_8: `reg16l→X_l o SP_l; reg16h→X_h o SP_h` -/
  | moveHalf (src dst : Half)
  /-- I_alu: `reg8` through the ALU -/
  | regAlu (r : Reg8) (u : AluUse)
  /-- I_alu: `A oper1→A`, by its function code -/
  | oper1 (code : BitVec 4)
  /-- I_alu: `reg8++ ó reg8--`, by its function code; C is kept (10_state.md R33) -/
  | countReg8 (code : BitVec 4) (r : Reg8)
  /-- I_alu: `reg16l→C o reg16h→B` -/
  | moveHalfAlu (src : Half) (r : Reg8)
  /-- I_t16: `PC+DIR_l→PC` -/
  | addDirL
  /-- I_t16: `DIR→PC` -/
  | dirToPc
  /-- I_t16: `reg16→PC` -/
  | reg16ToPc (r : Reg16)
  /-- I_id16: `reg16++ o reg16--` -/
  | countReg16 (down : Bool) (r : Reg16)
  /-- I_id16: `PC++` -/
  | incPc
  /-- I_id16: `SP--` -/
  | decSp
  /-- I_id16: `SP++` -/
  | incSp
  /-- I_id16: `DIR++` -/
  | incDir
  /-- I_2dir1: `2*DIR_l→DIR` -/
  | doubleDirL
  deriving DecidableEq, Repr

/-- The basic operation whose transfer it is (R295). -/
def Transfer.op : Transfer → BasicOp
  | .fetchCode | .fetchDirL | .fetchDirH | .fetchHalf _ => .f
  | .fetchAlu _ => .fAlu
  | .fetchCodeC _ | .fetchCodeI _ => .fFlag
  | .fetchCodeNoinc | .fetchDirHNoinc => .fNoinc
  | .readStack _ | .readEntry _ => .r
  | .readAlu _ _ | .readStackAlu _ => .rAlu
  | .write _ _ | .writeStackReg8 _ | .writeStack _ => .w
  | .inPort => .ip
  | .outPort => .op
  | .requestVector _ => .ri
  | .moveHalf _ _ => .i8
  | .regAlu _ _ | .oper1 _ | .countReg8 _ _ | .moveHalfAlu _ _ => .iAlu
  | .addDirL | .dirToPc | .reg16ToPc _ => .iT16
  | .countReg16 _ _ | .incPc | .decSp | .incSp | .incDir => .iId16
  | .doubleDirL => .i2dir1

/-- The address of the cell that `mem8` stands for. -/
def Datapath.cell (d : Datapath) : CellAt → Word
  | .dir => d.dir
  | .bc => d.s.bc
  | .xDirL => d.s.x + sext16 (lo d.dir)

/-- A byte passes through the ALU unchanged to a register: function 0000, whose flags are not taken (R292). -/
def State.moveAlu (s : State) (r : Reg8) (v : Byte) : State :=
  (aluOut 0b0000 s.a v s.flags.fc).elim s fun u => s.setReg8 r u.r

/-- A byte passes through the ALU; ENT1 is A and the carry input is F.C (R291). -/
def State.passAlu (s : State) (u : AluUse) (v : Byte) : State :=
  match u with
  | .cmp => (aluOut 0b1011 s.a v s.flags.fc).elim s fun r => { s with flags := s.flags.setCzosp r }
  | .oper2 code => (aluOut code s.a v s.flags.fc).elim s s.setAlu
  | .move r => s.moveAlu r v

/-- PC counts up. -/
def State.stepPc (s : State) : State := { s with pc := count false s.pc }

/-- One basic operation (R295). -/
def Transfer.run (t : Transfer) (d : Datapath) : Datapath :=
  let s := d.s
  let atPc := s.readByte s.pc
  match t with
  | .fetchCode => { d with s := s.stepPc, co := atPc }
  | .fetchDirL => { d with s := s.stepPc, dir := concat (hi d.dir) atPc }
  | .fetchDirH => { d with s := s.stepPc, dir := concat atPc (lo d.dir) }
  | .fetchHalf h => { d with s := (s.setHalf h atPc).stepPc }
  | .fetchAlu u => { d with s := (s.passAlu u atPc).stepPc }
  | .fetchCodeC v => { d with s := { s.stepPc with flags := { s.flags with fc := v } }, co := atPc }
  | .fetchCodeI v => { d with s := { s.stepPc with flags := { s.flags with fi := v } }, co := atPc }
  | .fetchCodeNoinc => { d with co := atPc }
  | .fetchDirHNoinc => { d with dir := concat atPc (lo d.dir) }
  | .readStack h => { d with s := s.setHalf h (s.readByte s.sp) }
  | .readEntry h => { d with s := s.setHalf h (s.readByte d.dir) }
  | .readAlu m u => { d with s := s.passAlu u (s.readByte (d.cell m)) }
  | .readStackAlu r => { d with s := s.setReg8 r (s.readByte s.sp) }
  | .write m r => { d with s := s.writeByte (d.cell m) (s.reg8 r) }
  | .writeStackReg8 r => { d with s := s.writeByte s.sp (s.reg8 r) }
  | .writeStack h => { d with s := s.writeByte s.sp (s.half h) }
  | .inPort => { d with s := { (s.portRead s.c).2 with a := (s.portRead s.c).1 } }
  | .outPort => { d with s := s.portWrite s.c s.a }
  | .requestVector v => { d with dir := concat (hi d.dir) v }
  | .moveHalf src dst => { d with s := s.setHalf dst (s.half src) }
  | .regAlu r u => { d with s := s.passAlu u (s.reg8 r) }
  | .oper1 code => { d with s := (aluOut code s.a 0 s.flags.fc).elim s s.setAlu }
  | .countReg8 code r =>
    { d with s := (aluOut code s.a (s.reg8 r) s.flags.fc).elim s fun u =>
        { s.setReg8 r u.r with flags := s.flags.setZosp u } }
  | .moveHalfAlu src r => { d with s := s.moveAlu r (s.half src) }
  | .addDirL => { d with s := { s with pc := s.pc + sext16 (lo d.dir) } }
  | .dirToPc => { d with s := { s with pc := d.dir } }
  | .reg16ToPc r => { d with s := { s with pc := s.reg16 r } }
  | .countReg16 down r => { d with s := s.setReg16 r (count down (s.reg16 r)) }
  | .incPc => { d with s := s.stepPc }
  | .decSp => { d with s := { s with sp := count true s.sp } }
  | .incSp => { d with s := { s with sp := count false s.sp } }
  | .incDir => { d with dir := count false d.dir }
  | .doubleDirL => { d with dir := BitVec.ofNat 16 (2 * (lo d.dir).toNat) }

/-- A sequence of basic operations, one after another. -/
def runTransfers (ts : List Transfer) (d : Datapath) : Datapath := ts.foldl (fun d t => t.run d) d

/-! ## The sequences -/

/-- What brings an `op8` to the ALU, after the opcode fetch (R304 to R306). -/
def Op8.transfers (u : AluUse) : Op8 → List Transfer
  | .reg r => [.regAlu r u]
  | .dat8 _ => [.fetchAlu u]
  | .mem .atBC => [.readAlu .bc u]
  | .mem (.atX _) => [.fetchDirL, .readAlu .xDirL u]
  | .mem (.addr _) => [.fetchDirL, .fetchDirH, .readAlu .dir u]

/-- What stores a register to a `mem8`, after the opcode fetch (R307). -/
def Mem8.transfers (r : Reg8) : Mem8 → List Transfer
  | .atBC => [.write .bc r]
  | .atX _ => [.fetchDirL, .write .xDirL r]
  | .addr _ => [.fetchDirL, .fetchDirH, .write .dir r]

/-- The transfers of `MOV reg16, op16` after the opcode fetch (R308). -/
def Op16.transfers (dst : Reg16) : Op16 → List Transfer
  | .reg q =>
    if dst = .bc then [.moveHalfAlu (Reg16.low q) .c, .moveHalfAlu (Reg16.high q) .b]
    else [.moveHalf (Reg16.low q) (Reg16.low dst), .moveHalf (Reg16.high q) (Reg16.high dst)]
  | .dat16 _ =>
    if dst = .bc then [.fetchAlu (.move .c), .fetchAlu (.move .b)]
    else [.fetchHalf (Reg16.low dst), .fetchHalf (Reg16.high dst)]

/-- The pushes of the two halves of PC (R314, R316). -/
def pushPc : List Transfer := [.decSp, .writeStack .pch, .decSp, .writeStack .pcl]

/-- The load of PC from the entry of the vector in DIR_l (R316). -/
def loadEntry : List Transfer := [.doubleDirL, .readEntry .pcl, .incDir, .readEntry .pch]

/-- The sequence of a conditional jump (R311). -/
def jumpTransfers (taken : Bool) : List Transfer :=
  if taken then [.fetchCode, .fetchDirL, .addDirL] else [.fetchCode, .incPc]

/-- The sequence of a hardware-interrupt entry (R317). -/
def hwInterruptTransfers (v : Byte) : List Transfer := .requestVector v :: (pushPc ++ loadEntry)

/-- The sequence of an instruction (R300 to R316), `f` the flags before it; none for `HLT`, whose sequence
the source does not determine (R302, C4). -/
def Instr.transfers (f : Flags) (i : Instr) : Option (List Transfer) :=
  match i with
  | .nop => some [.fetchCode]
  | .clc => some [.fetchCodeC false]
  | .cli => some [.fetchCodeI false]
  | .stc => some [.fetchCodeC true]
  | .sti => some [.fetchCodeI true]
  | .hlt => none
  | .inAC => some [.fetchCode, .inPort]
  | .outCA => some [.fetchCode, .outPort]
  | .add s => some (.fetchCodeC false :: Op8.transfers (.oper2 0b0010) s)
  | .sub s => some (.fetchCodeC false :: Op8.transfers (.oper2 0b1011) s)
  | .cmp s => some (.fetchCodeC false :: Op8.transfers .cmp s)
  | .adc s => some (.fetchCode :: Op8.transfers (.oper2 0b0010) s)
  | .sbb s => some (.fetchCode :: Op8.transfers (.oper2 0b1011) s)
  | .and s => some (.fetchCode :: Op8.transfers (.oper2 0b0011) s)
  | .or s => some (.fetchCode :: Op8.transfers (.oper2 0b1000) s)
  | .xor s => some (.fetchCode :: Op8.transfers (.oper2 0b1111) s)
  | .movReg8 r s => some (.fetchCode :: Op8.transfers (.move r) s)
  | .shl => some [.fetchCodeC false, .oper1 0b1001]
  | .shr => some [.fetchCodeC false, .oper1 0b1010]
  | .neg => some [.fetchCode, .oper1 0b0110]
  | .not => some [.fetchCode, .oper1 0b0111]
  | .rol => some [.fetchCode, .oper1 0b1100]
  | .ror => some [.fetchCode, .oper1 0b1101]
  | .rcl => some [.fetchCode, .oper1 0b1001]
  | .rcr => some [.fetchCode, .oper1 0b1010]
  | .sar => some [.fetchCode, .oper1 0b1110]
  | .incReg8 r => some [.fetchCode, .countReg8 0b0101 r]
  | .decReg8 r => some [.fetchCode, .countReg8 0b0100 r]
  | .movMem8 m r => some (.fetchCode :: Mem8.transfers r m)
  | .movReg16 d s => some (.fetchCode :: Op16.transfers d s)
  | .pushAF => some [.fetchCode, .decSp, .writeStackReg8 .a, .decSp, .writeStack .f]
  | .pushBC => some [.fetchCode, .decSp, .writeStackReg8 .b, .decSp, .writeStackReg8 .c]
  | .pushX => some [.fetchCode, .decSp, .writeStack .xh, .decSp, .writeStack .xl]
  | .popAF => some [.fetchCode, .readStack .f, .incSp, .readStackAlu .a, .incSp]
  | .popBC => some [.fetchCode, .readStackAlu .c, .incSp, .readStackAlu .b, .incSp]
  | .popX => some [.fetchCode, .readStack .xl, .incSp, .readStack .xh, .incSp]
  | .incReg16 r => some [.fetchCode, .countReg16 false r]
  | .decReg16 r => some [.fetchCode, .countReg16 true r]
  | .jc _ | .jnc _ | .jo _ | .jno _ | .jp _ | .jnp _ | .js _ | .jns _ | .jz _ | .jnz _ =>
    some (jumpTransfers (Instr.taken f i))
  | .jmpAddr _ => some [.fetchCode, .fetchDirL, .fetchDirHNoinc, .dirToPc]
  | .jmpReg r => some [.fetchCodeNoinc, .reg16ToPc r]
  | .call _ => some ([.fetchCode, .fetchDirL, .fetchDirH] ++ pushPc ++ [.dirToPc])
  | .ret => some [.fetchCodeNoinc, .readStack .pcl, .incSp, .readStack .pch, .incSp]
  | .int _ => some ([.fetchCode, .fetchDirL] ++ pushPc ++ loadEntry)

/-! ## Their cycles -/

/-- The cycles of a sequence (R294). -/
def transferCycles (ts : List Transfer) : Nat := (ts.map fun t => t.op.cycles).sum

/-- Clock cycles of a hardware-interrupt entry: the sum of its sequence (R317, R384). -/
def hwInterruptCycles : Nat := transferCycles (hwInterruptTransfers 0)

end Sys2Proof.Machine
end

