-- ==== Sys2Proof/Machine/Boundary.lean ====
section
/-! DEFINITION. What happens at an instruction boundary (60_exceptions.md R331, R332): the request that is
accepted, the fetch, and the passage to the next boundary. -/

namespace Sys2Proof.Machine

/-- The request accepted at this boundary: the one the environment presents, if F.I = 1 (R338, D7);
with F.I = 0 it is ignored. -/
def State.acceptedRequest (s : State) : Option Byte :=
  if s.flags.fi then s.irq else none

/-- The instruction at PC, read from the bytes at PC and the two after it, wrapping (30_encoding.md R90,
20_memory.md R74, R77). Reading a byte the instruction does not use changes nothing (R70, R72). -/
def State.fetch (s : State) : Option Instr :=
  decodeBytes (s.readByte s.pc) (s.readByte (s.pc + 1)) (s.readByte (s.pc + 2))

/-- The state after every byte of an instruction is fetched: PC is the address of the byte that
follows it (10_state.md R24, 00_scope.md R12). -/
def State.pastInstr (s : State) (i : Instr) : State :=
  { s with pc := s.pc + BitVec.ofNat 16 i.length }

/-- The passage to the next boundary: its position in the run, the request the environment presents
there (R336), and the ghost cycle total with `n` cycles added (70_reset_and_hazards.md R380). -/
def State.toNextBoundary (s : State) (n : Nat) : State :=
  { s with irq := Config.irqOracle (s.tick + 1), tick := s.tick + 1, cycles := s.cycles + n }

/-- The result of a meaning, carried to the next boundary. -/
def endInstr (n : Nat) : Result → Result
  | .next t => .next (t.toNextBoundary n)
  | .fault r => .fault r
  | .refused r => .refused r

/-- One call of the step function of R332, `run` giving an instruction its meaning: an accepted request
enters its handler, a halted processor does nothing, and otherwise the instruction at PC executes; a
first byte that selects none is the model's fault (R119). -/
def boundary (run : Instr → State → Result) (s : State) : Result :=
  match s.acceptedRequest with
  | some v => .next ((s.hwInterruptEntry v).toNextBoundary hwInterruptCycles)
  | none =>
    if s.halted then .next (s.toNextBoundary 0)
    else
      match s.fetch with
      | some i => endInstr (Instr.cycles s.flags i) (run i (s.pastInstr i))
      | none => .fault (.illegalOpcode (s.readByte s.pc))

/-- `s` with the three bytes in memory where the next boundary fetches them, and with nothing in the
way of that fetch: not halted, no request that would be accepted, no absent range over the bytes. -/
def State.placeBytes (s : State) (b0 b1 b2 : Byte) : State :=
  let p0 := s.pc
  let p1 := s.pc + 1
  let p2 := s.pc + 2
  let blocks (r : Region) : Bool :=
    decide (r.kind = .absent) && (Region.covers r p0 || Region.covers r p1 || Region.covers r p2)
  { s with
    mem := Memory.write (Memory.write (Memory.write s.mem p0.toNat b0) p1.toNat b1) p2.toNat b2
    halted := false
    irq := if s.flags.fi then none else s.irq
    params := { s.params with memMap := s.params.memMap.filter fun r => !blocks r } }

end Sys2Proof.Machine
end

