-- ==== Sys2Proof/Machine/AluBinary.lean ====
section
/-! DEFINITION. The two-operand ALU instructions on A (41_alu_binary.md). Flag I never changes (R168). -/

namespace Sys2Proof.Machine

/-- `ADD A, op8` (R160). -/
def execAdd (src : Op8) (s : State) : Result :=
  .next (s.setAlu (add8 s.a (s.readOp8 src) false))

/-- `ADC A, op8` (R161). -/
def execAdc (src : Op8) (s : State) : Result :=
  .next (s.setAlu (add8 s.a (s.readOp8 src) s.flags.fc))

/-- `SUB A, op8` (R162). -/
def execSub (src : Op8) (s : State) : Result :=
  .next (s.setAlu (sub8 s.a (s.readOp8 src) false))

/-- `SBB A, op8` (R163). -/
def execSbb (src : Op8) (s : State) : Result :=
  .next (s.setAlu (sub8 s.a (s.readOp8 src) s.flags.fc))

/-- `CMP A, op8` (R164): the flags of `SUB`, A unchanged. -/
def execCmp (src : Op8) (s : State) : Result :=
  .next { s with flags := s.flags.setCzosp (sub8 s.a (s.readOp8 src) false) }

/-- `AND A, op8` (R165). -/
def execAnd (src : Op8) (s : State) : Result :=
  .next (s.setAlu (logic8 (s.a &&& s.readOp8 src)))

/-- `OR A, op8` (R166). -/
def execOr (src : Op8) (s : State) : Result :=
  .next (s.setAlu (logic8 (s.a ||| s.readOp8 src)))

/-- `XOR A, op8` (R167). -/
def execXor (src : Op8) (s : State) : Result :=
  .next (s.setAlu (logic8 (s.a ^^^ s.readOp8 src)))

end Sys2Proof.Machine
end

