-- ==== Sys2Proof/Machine/AluUnary.lean ====
section
/-! DEFINITION. The one-operand instructions (42_alu_unary.md). Flag I never changes. -/

namespace Sys2Proof.Machine

/-- `INC reg8` (R198): C is kept. -/
def execIncReg8 (r : Reg8) (s : State) : Result :=
  let u := add8 (s.reg8 r) 1 false
  .next { s.setReg8 r u.r with flags := s.flags.setZosp u }

/-- `DEC reg8` (R199): C is kept. -/
def execDecReg8 (r : Reg8) (s : State) : Result :=
  let u := sub8 (s.reg8 r) 1 false
  .next { s.setReg8 r u.r with flags := s.flags.setZosp u }

/-- `INC reg16` (R200): modulo 65,536, no flag. -/
def execIncReg16 (r : Reg16) (s : State) : Result :=
  .next (s.setReg16 r (s.reg16 r + 1))

/-- `DEC reg16` (R201): modulo 65,536, no flag. -/
def execDecReg16 (r : Reg16) (s : State) : Result :=
  .next (s.setReg16 r (s.reg16 r - 1))

/-- `NEG A` (R202): the two's complement, with the flags of the subtraction 0 - A (C2, D14). -/
def execNeg (s : State) : Result :=
  .next (s.setAlu (sub8 0 s.a false))

/-- `NOT A` (R203): the one's complement. -/
def execNot (s : State) : Result :=
  .next (s.setAlu (logic8 (s.a ^^^ 0xFF)))

/-- `ROL A` (R204). -/
def execRol (s : State) : Result :=
  .next (s.setAlu (rol8 s.a))

/-- `ROR A` (R205, C1). -/
def execRor (s : State) : Result :=
  .next (s.setAlu (ror8 s.a))

/-- `RCL A` (R206). -/
def execRcl (s : State) : Result :=
  .next (s.setAlu (rcl8 s.a s.flags.fc))

/-- `RCR A` (R207). -/
def execRcr (s : State) : Result :=
  .next (s.setAlu (rcr8 s.a s.flags.fc))

/-- `SHL A` (R208). -/
def execShl (s : State) : Result :=
  .next (s.setAlu (shl8 s.a))

/-- `SHR A` (R209). -/
def execShr (s : State) : Result :=
  .next (s.setAlu (shr8 s.a))

/-- `SAR A` (R211). -/
def execSar (s : State) : Result :=
  .next (s.setAlu (sar8 s.a))

end Sys2Proof.Machine
end

