-- ==== Sys2Proof/Machine/ControlTransfer.lean ====
section
/-! DEFINITION. The control transfer instructions (43_control_transfer.md). Each meaning starts from the
state whose PC is already past the instruction, so that PC is the address of the next one in memory
(R24, R240). No flag changes. -/

namespace Sys2Proof.Machine

/-- The conditional jump (R240): the displacement counts from the next instruction, modulo 65,536. -/
def State.jumpIf (s : State) (cond : Bool) (rel : Byte) : State :=
  if cond then { s with pc := s.pc + sext16 rel } else s

/-- `JC` (R230). -/
def execJc (rel : Byte) (s : State) : Result :=
  .next (s.jumpIf s.flags.fc rel)

/-- `JNC` (R231). -/
def execJnc (rel : Byte) (s : State) : Result :=
  .next (s.jumpIf (!s.flags.fc) rel)

/-- `JO` (R232). -/
def execJo (rel : Byte) (s : State) : Result :=
  .next (s.jumpIf s.flags.fo rel)

/-- `JNO` (R233). -/
def execJno (rel : Byte) (s : State) : Result :=
  .next (s.jumpIf (!s.flags.fo) rel)

/-- `JP` (R234). -/
def execJp (rel : Byte) (s : State) : Result :=
  .next (s.jumpIf s.flags.fp rel)

/-- `JNP` (R235). -/
def execJnp (rel : Byte) (s : State) : Result :=
  .next (s.jumpIf (!s.flags.fp) rel)

/-- `JS` (R236). -/
def execJs (rel : Byte) (s : State) : Result :=
  .next (s.jumpIf s.flags.fs rel)

/-- `JNS` (R237). -/
def execJns (rel : Byte) (s : State) : Result :=
  .next (s.jumpIf (!s.flags.fs) rel)

/-- `JZ` (R238). -/
def execJz (rel : Byte) (s : State) : Result :=
  .next (s.jumpIf s.flags.fz rel)

/-- `JNZ` (R239). -/
def execJnz (rel : Byte) (s : State) : Result :=
  .next (s.jumpIf (!s.flags.fz) rel)

/-- `JMP addr` (R241). -/
def execJmpAddr (addr : Word) (s : State) : Result :=
  .next { s with pc := addr }

/-- `JMP reg16` (R242). -/
def execJmpReg (r : Reg16) (s : State) : Result :=
  .next { s with pc := s.reg16 r }

/-- `CALL addr` (R243). -/
def execCall (addr : Word) (s : State) : Result :=
  .next { s.push16 s.pc with pc := addr }

/-- `RET` (R244). -/
def execRet (s : State) : Result :=
  .next s.returnPop

/-- `INT vector` (R245): F is not pushed and I is neither tested nor changed (D7). -/
def execInt (vector : Byte) (s : State) : Result :=
  .next (s.takeVector vector)

end Sys2Proof.Machine
end

