-- ==== Sys2Proof/Machine/DataTransfer.lean ====
section
/-! DEFINITION. The data transfer instructions (40_data_transfer.md). Each meaning starts from the state
whose PC is already past the instruction (R24). No flag changes but by `POP AF`. -/

namespace Sys2Proof.Machine

/-- `MOV reg8, op8` (R130). -/
def execMovReg8 (dst : Reg8) (src : Op8) (s : State) : Result :=
  .next (s.setReg8 dst (s.readOp8 src))

/-- `MOV mem8, reg8` (R131). -/
def execMovMem8 (dst : Mem8) (src : Reg8) (s : State) : Result :=
  .next (s.writeByte (s.ea dst) (s.reg8 src))

/-- `MOV reg16, op16` (R132). -/
def execMovReg16 (dst : Reg16) (src : Op16) (s : State) : Result :=
  .next (s.setReg16 dst (s.readOp16 src))

/-- `PUSH AF` (R137): A above F; bits 7 and 6 of the byte of F are a free value (R25, log 6). -/
def execPushAF (s : State) : Result :=
  .next (s.push s.a (s.flags.toByte (Config.unusedFBits s.tick)))

/-- `PUSH BC` (R138). -/
def execPushBC (s : State) : Result :=
  .next (s.push s.b s.c)

/-- `PUSH X` (R139). -/
def execPushX (s : State) : Result :=
  .next (s.push16 s.x)

/-- `POP AF` (R140): all six flags are loaded. -/
def execPopAF (s : State) : Result :=
  .next { s.dropPair with a := s.popHigh, flags := Flags.ofByte s.popLow }

/-- `POP BC` (R141). -/
def execPopBC (s : State) : Result :=
  .next { s.dropPair with b := s.popHigh, c := s.popLow }

/-- `POP X` (R142). -/
def execPopX (s : State) : Result :=
  .next { s.dropPair with x := concat s.popHigh s.popLow }

end Sys2Proof.Machine
end

