-- ==== Sys2Proof/Machine/System.lean ====
section
/-! DEFINITION. The system, flag and port instructions (44_system_io.md). -/

namespace Sys2Proof.Machine

/-- `NOP` (R270): only PC changes, through the fetch. -/
def execNop (s : State) : Result :=
  .next s

/-- `HLT` (R271): the halt state. PC is past the `HLT` when HLT_ADVANCES_PC is true, and else the
address of the `HLT` itself (D10, C4). -/
def execHlt (s : State) : Result :=
  .next { s with halted := true, pc := if s.params.hltAdvancesPc then s.pc else s.pc - 1 }

/-- `CLC` (R272). -/
def execClc (s : State) : Result :=
  .next { s with flags := { s.flags with fc := false } }

/-- `STC` (R273). -/
def execStc (s : State) : Result :=
  .next { s with flags := { s.flags with fc := true } }

/-- `CLI` (R274). -/
def execCli (s : State) : Result :=
  .next { s with flags := { s.flags with fi := false } }

/-- `STI` (R275). -/
def execSti (s : State) : Result :=
  .next { s with flags := { s.flags with fi := true } }

/-- `IN A, C` (R276): the value is the environment's, a free value; no flag changes. -/
def execInAC (s : State) : Result :=
  .next { (s.portRead s.c).2 with a := (s.portRead s.c).1 }

/-- `OUT C, A` (R277). -/
def execOutCA (s : State) : Result :=
  .next (s.portWrite s.c s.a)

end Sys2Proof.Machine
end

