-- ==== Sys2Proof/Machine/Dispatch.lean ====
section
/-! DEFINITION. One arm per instruction of the opcode table, in the table's order. -/

namespace Sys2Proof.Machine

def exec (i : Instr) (s : State) : Host.Outcome State Fault Refusal :=
  match i with
  | .nop => Sys2Proof.Machine.execNop s
  | .popAF => Sys2Proof.Machine.execPopAF s
  | .popBC => Sys2Proof.Machine.execPopBC s
  | .popX => Sys2Proof.Machine.execPopX s
  | .pushAF => Sys2Proof.Machine.execPushAF s
  | .pushBC => Sys2Proof.Machine.execPushBC s
  | .pushX => Sys2Proof.Machine.execPushX s
  | .ret => Sys2Proof.Machine.execRet s
  | .stc => Sys2Proof.Machine.execStc s
  | .sti => Sys2Proof.Machine.execSti s
  | .call addr => Sys2Proof.Machine.execCall addr s
  | .cli => Sys2Proof.Machine.execCli s
  | .clc => Sys2Proof.Machine.execClc s
  | .hlt => Sys2Proof.Machine.execHlt s
  | .inAC => Sys2Proof.Machine.execInAC s
  | .int vector => Sys2Proof.Machine.execInt vector s
  | .jc rel => Sys2Proof.Machine.execJc rel s
  | .jmpAddr addr => Sys2Proof.Machine.execJmpAddr addr s
  | .jnc rel => Sys2Proof.Machine.execJnc rel s
  | .jno rel => Sys2Proof.Machine.execJno rel s
  | .jnp rel => Sys2Proof.Machine.execJnp rel s
  | .jns rel => Sys2Proof.Machine.execJns rel s
  | .jnz rel => Sys2Proof.Machine.execJnz rel s
  | .jo rel => Sys2Proof.Machine.execJo rel s
  | .jp rel => Sys2Proof.Machine.execJp rel s
  | .js rel => Sys2Proof.Machine.execJs rel s
  | .jz rel => Sys2Proof.Machine.execJz rel s
  | .jmpReg r => Sys2Proof.Machine.execJmpReg r s
  | .outCA => Sys2Proof.Machine.execOutCA s
  | .decReg16 r => Sys2Proof.Machine.execDecReg16 r s
  | .incReg16 r => Sys2Proof.Machine.execIncReg16 r s
  | .sar => Sys2Proof.Machine.execSar s
  | .movMem8 dst src => Sys2Proof.Machine.execMovMem8 dst src s
  | .movReg16 dst src => Sys2Proof.Machine.execMovReg16 dst src s
  | .movReg8 dst src => Sys2Proof.Machine.execMovReg8 dst src s
  | .cmp src => Sys2Proof.Machine.execCmp src s
  | .add src => Sys2Proof.Machine.execAdd src s
  | .adc src => Sys2Proof.Machine.execAdc src s
  | .and src => Sys2Proof.Machine.execAnd src s
  | .ror => Sys2Proof.Machine.execRor s
  | .decReg8 r => Sys2Proof.Machine.execDecReg8 r s
  | .rol => Sys2Proof.Machine.execRol s
  | .incReg8 r => Sys2Proof.Machine.execIncReg8 r s
  | .neg => Sys2Proof.Machine.execNeg s
  | .not => Sys2Proof.Machine.execNot s
  | .or src => Sys2Proof.Machine.execOr src s
  | .rcl => Sys2Proof.Machine.execRcl s
  | .rcr => Sys2Proof.Machine.execRcr s
  | .sbb src => Sys2Proof.Machine.execSbb src s
  | .shl => Sys2Proof.Machine.execShl s
  | .shr => Sys2Proof.Machine.execShr s
  | .sub src => Sys2Proof.Machine.execSub src s
  | .xor src => Sys2Proof.Machine.execXor src s

end Sys2Proof.Machine
end

