-- ==== Sys2Proof/Machine/Step.lean ====
section
/-! DEFINITION. One step of the machine: one call of the step function of 60_exceptions.md R332. -/

namespace Sys2Proof.Machine

/-- One instruction boundary (R331, R332). -/
def step (s : State) : Host.Outcome State Fault Refusal := boundary exec s

/-- `s` with the instruction whose bits are `w` (every bit from `nbits` on 0, up to the longest
instruction of three bytes) stored where `step` fetches its next instruction (log 31). -/
def State.withFetchWord (s : State) (nbits w : Nat) : State :=
  let v := w % 2 ^ nbits
  s.placeBytes (byteAt v 0) (byteAt v 1) (byteAt v 2)

end Sys2Proof.Machine
end

