-- ==== Sys2Proof/Safety.lean ====
section
/-! DEFINITION. What counts as a safe run (70_reset_and_hazards.md R374), and the terms in which the
statements speak: the flag matrix (10_state.md R33), the register access table (R41), the cells an
instruction stores to (20_memory.md R62), and what a fetch needs. -/

namespace Sys2Proof.Machine

/-! ## Safe runs -/

/-- A step that answers a next state. -/
def State.runs (s : State) : Bool :=
  match step s with
  | .next _ => true
  | _ => false

/-- `n` steps from `s` all answer a next state: no fault and no refusal is met (R374). -/
def safeFor : Nat → State → Prop
  | 0, _ => True
  | n + 1, s => ∃ t, step s = .next t ∧ safeFor n t

/-- The states a run from `s` goes through. -/
inductive Reaches : State → State → Prop where
  | refl (s : State) : Reaches s s
  | step {s t u : State} (h : Reaches s t) (e : step t = .next u) : Reaches s u

/-- At most `n` steps from `s`, ended early by a stop: a run over a bounded number of steps (R374). -/
def runFor : Nat → State → Result
  | 0, s => .next s
  | n + 1, s =>
    match step s with
    | .next t => runFor n t
    | r => r

/-- The environment presents no request at this boundary and at none to come: the `IrqOracle` known to
present no further request, and interrupts not modelled (R374, 90_conflicts.md C13). -/
def State.quiet (s : State) : Prop := s.irq = none ∧ ∀ k, s.tick < k → Config.irqOracle k = none

/-- The normal end of a run: halted, and no request can be accepted any more (R374, 93 U12, log 30). -/
def State.ended (s : State) : Prop := s.halted = true ∧ (s.flags.fi = false ∨ s.quiet)

/-- The result of a run (R374): the final registers, flags and memory, and the ordered port log. -/
structure RunResult where
  a : Byte
  b : Byte
  c : Byte
  flags : Flags
  x : Word
  sp : Word
  pc : Word
  mem : Memory
  portLog : List PortEvent
  deriving DecidableEq, Repr

/-- The result of a run whose final state is `s`. -/
def State.result (s : State) : RunResult :=
  { a := s.a, b := s.b, c := s.c, flags := s.flags, x := s.x, sp := s.sp, pc := s.pc, mem := s.mem,
    portLog := s.portLog }

/-- How a run ends (R374). -/
inductive RunEnd where
  /-- halted, with no request to be accepted any more -/
  | normal
  /-- the model's fault -/
  | fault (r : Fault)
  deriving DecidableEq, Repr

/-- The run from `s` ends so, with that result (R374); a run starts at `State.afterReset`. A run that has
no end is non-terminating, and a claim about it is one about `runFor` or `safeFor`. -/
inductive RunEnds (s : State) : RunEnd → RunResult → Prop where
  | normal {t : State} (h : Reaches s t) (e : t.ended) : RunEnds s .normal t.result
  | fault {t : State} {r : Fault} (h : Reaches s t) (e : step t = .fault r) :
    RunEnds s (.fault r) t.result

/-- No request is accepted at this boundary and the processor is not halted: the next event is a fetch
(60_exceptions.md R332). -/
def State.fetches (s : State) : Prop := s.acceptedRequest = none ∧ s.halted = false

/-- Two states agree in everything the spec gives the machine, and in the port log and parameters: they
may differ in the position of the run, the request presented and the ghost cycle total. -/
def State.sameMachine (s t : State) : Prop :=
  t.a = s.a ∧ t.b = s.b ∧ t.c = s.c ∧ t.flags = s.flags ∧ t.x = s.x ∧ t.sp = s.sp ∧ t.pc = s.pc ∧
    t.halted = s.halted ∧ t.mem = s.mem ∧ t.params = s.params ∧ t.portLog = s.portLog

/-- `n` executions of one instruction, one after another, each from the state the last one left; none
where one does not answer a next state. -/
def repeatExec (i : Instr) : Nat → State → Option State
  | 0, s => some s
  | n + 1, s =>
    match exec i s with
    | .next t => repeatExec i n t
    | _ => none

/-! ## The flag matrix -/

/-- The six flags (R25). -/
inductive Flag where
  | c | z | o | s | p | i
  deriving DecidableEq, Repr

/-- The value of a flag. -/
def Flags.get (f : Flags) : Flag → Bool
  | .c => f.fc
  | .z => f.fz
  | .o => f.fo
  | .s => f.fs
  | .p => f.fp
  | .i => f.fi

/-- The four marks of the flag columns (R33): 0, 1, X and N. -/
inductive Mark where
  | zero | one | updated | unchanged
  deriving DecidableEq, Repr

/-- A row of the matrix: the columns C, Z, O, S, P, I. -/
def markRow (c z o s p i : Mark) : Flag → Mark
  | .c => c
  | .z => z
  | .o => o
  | .s => s
  | .p => p
  | .i => i

/-- The flag matrix (R33). -/
def flagMark : Instr → Flag → Mark
  | .adc _ | .add _ | .cmp _ | .sub _ | .sbb _ | .neg | .rcl | .rcr | .rol | .ror | .shl =>
    markRow .updated .updated .updated .updated .updated .unchanged
  | .and _ | .or _ | .xor _ | .not => markRow .zero .updated .zero .updated .updated .unchanged
  | .incReg8 _ | .decReg8 _ => markRow .unchanged .updated .updated .updated .updated .unchanged
  | .shr => markRow .updated .updated .updated .zero .updated .unchanged
  | .sar => markRow .updated .updated .zero .updated .updated .unchanged
  | .popAF => markRow .updated .updated .updated .updated .updated .updated
  | .clc => markRow .zero .unchanged .unchanged .unchanged .unchanged .unchanged
  | .stc => markRow .one .unchanged .unchanged .unchanged .unchanged .unchanged
  | .cli => markRow .unchanged .unchanged .unchanged .unchanged .unchanged .zero
  | .sti => markRow .unchanged .unchanged .unchanged .unchanged .unchanged .one
  | .nop | .popBC | .popX | .pushAF | .pushBC | .pushX | .ret | .call _ | .hlt | .inAC | .int _
  | .jc _ | .jmpAddr _ | .jnc _ | .jno _ | .jnp _ | .jns _ | .jnz _ | .jo _ | .jp _ | .js _
  | .jz _ | .jmpReg _ | .outCA | .decReg16 _ | .incReg16 _ | .movMem8 _ _ | .movReg16 _ _
  | .movReg8 _ _ => fun _ => .unchanged

/-! ## The register access table -/

/-- The registers of R41, and the halt state. -/
inductive Reg where
  | a | b | c | x | sp | pc | halted
  deriving DecidableEq, Repr

/-- The content of a register, as a number. -/
def State.get (s : State) : Reg → Nat
  | .a => s.a.toNat
  | .b => s.b.toNat
  | .c => s.c.toNat
  | .x => s.x.toNat
  | .sp => s.sp.toNat
  | .pc => s.pc.toNat
  | .halted => s.halted.toNat

/-- An 8-bit register by its name. -/
def Reg8.regs : Reg8 → List Reg
  | .a => [.a]
  | .b => [.b]
  | .c => [.c]

/-- A 16-bit register by the registers it consists of (R21). -/
def Reg16.regs : Reg16 → List Reg
  | .bc => [.b, .c]
  | .x => [.x]
  | .sp => [.sp]

/-- The registers that form the address of a memory mode. -/
def Mem8.regs : Mem8 → List Reg
  | .addr _ => []
  | .atBC => [.b, .c]
  | .atX _ => [.x]

/-- The registers an `op8` reads. -/
def Op8.regs : Op8 → List Reg
  | .mem m => Mem8.regs m
  | .reg r => Reg8.regs r
  | .dat8 _ => []

/-- The registers an `op16` reads. -/
def Op16.regs : Op16 → List Reg
  | .reg r => Reg16.regs r
  | .dat16 _ => []

/-- The registers an instruction reads (R41, column "reads"). -/
def Instr.reads : Instr → List Reg
  | .movReg8 _ s => Op8.regs s
  | .movMem8 m r => Reg8.regs r ++ Mem8.regs m
  | .movReg16 _ s => Op16.regs s
  | .pushAF => [.sp, .a]
  | .pushBC => [.sp, .b, .c]
  | .pushX => [.sp, .x]
  | .popAF | .popBC | .popX | .ret => [.sp]
  | .add s | .sub s | .and s | .or s | .xor s | .adc s | .sbb s | .cmp s => .a :: Op8.regs s
  | .incReg8 r | .decReg8 r => Reg8.regs r
  | .incReg16 r | .decReg16 r | .jmpReg r => Reg16.regs r
  | .neg | .not | .rol | .ror | .shl | .shr | .sar | .rcl | .rcr => [.a]
  | .jmpAddr _ | .nop | .hlt | .clc | .stc | .cli | .sti => []
  | .jc _ | .jnc _ | .jo _ | .jno _ | .jp _ | .jnp _ | .js _ | .jns _ | .jz _ | .jnz _ => [.pc]
  | .call _ | .int _ => [.sp, .pc]
  | .inAC => [.c]
  | .outCA => [.c, .a]

/-- The flags an instruction reads (R41, column "reads"). -/
def Instr.readsFlags : Instr → List Flag
  | .adc _ | .sbb _ | .rcl | .rcr | .jc _ | .jnc _ => [.c]
  | .jo _ | .jno _ => [.o]
  | .jp _ | .jnp _ => [.p]
  | .js _ | .jns _ => [.s]
  | .jz _ | .jnz _ => [.z]
  | .pushAF => [.c, .z, .o, .s, .p, .i]
  | .nop | .popAF | .popBC | .popX | .pushBC | .pushX | .ret | .stc | .sti | .call _ | .cli
  | .clc | .hlt | .inAC | .int _ | .jmpAddr _ | .jmpReg _ | .outCA | .decReg16 _ | .incReg16 _
  | .sar | .movMem8 _ _ | .movReg16 _ _ | .movReg8 _ _ | .cmp _ | .add _ | .and _ | .ror
  | .decReg8 _ | .rol | .incReg8 _ | .neg | .not | .or _ | .shl | .shr | .sub _ | .xor _ => []

/-- The registers an instruction writes (R41, column "writes"). -/
def Instr.writes : Instr → List Reg
  | .movReg8 r _ | .incReg8 r | .decReg8 r => Reg8.regs r
  | .movReg16 r _ | .incReg16 r | .decReg16 r => Reg16.regs r
  | .pushAF | .pushBC | .pushX => [.sp]
  | .popAF => [.sp, .a]
  | .popBC => [.sp, .b, .c]
  | .popX => [.sp, .x]
  | .add _ | .sub _ | .and _ | .or _ | .xor _ | .adc _ | .sbb _ => [.a]
  | .neg | .not | .rol | .ror | .shl | .shr | .sar | .rcl | .rcr | .inAC => [.a]
  | .movMem8 _ _ | .cmp _ | .nop | .clc | .stc | .cli | .sti | .outCA => []
  | .jmpAddr _ | .jmpReg _ => [.pc]
  | .jc _ | .jnc _ | .jo _ | .jno _ | .jp _ | .jnp _ | .js _ | .jns _ | .jz _ | .jnz _ => [.pc]
  | .call _ | .ret | .int _ => [.sp, .pc]
  | .hlt => [.halted]

/-- The addresses an instruction stores to (20_memory.md R62, R66; 30_encoding.md R112). -/
def Instr.stores (s : State) : Instr → List Word
  | .movMem8 m _ => [s.ea m]
  | .pushAF | .pushBC | .pushX | .call _ | .int _ => [s.sp - 1, s.sp - 2]
  | .nop | .popAF | .popBC | .popX | .ret | .stc | .sti | .cli | .clc | .hlt | .inAC | .jc _
  | .jmpAddr _ | .jnc _ | .jno _ | .jnp _ | .jns _ | .jnz _ | .jo _ | .jp _ | .js _ | .jz _
  | .jmpReg _ | .outCA | .decReg16 _ | .incReg16 _ | .sar | .movReg16 _ _ | .movReg8 _ _
  | .cmp _ | .add _ | .adc _ | .and _ | .ror | .decReg8 _ | .rol | .incReg8 _ | .neg | .not
  | .or _ | .rcl | .rcr | .sbb _ | .shl | .shr | .sub _ | .xor _ => []

/-! ## Stores and the stack -/

/-- What address `q` reads as after `v` is stored at `p` (20_memory.md R72, R73). -/
def State.readAfterStore (s : State) (p : Word) (v : Byte) (q : Word) : Byte :=
  if s.isRam p = true ∧ q = p then v else s.readByte q

/-- What address `p` reads as after the pair `h`, `l` is pushed (R66): the high byte stands at the old
SP - 1 and the low byte at the old SP - 2 where those are RAM. -/
def State.readAfterPush (s : State) (h l : Byte) (p : Word) : Byte :=
  if s.isRam p = true ∧ p = s.sp - 1 then h
  else if s.isRam p = true ∧ p = s.sp - 2 then l
  else s.readByte p

/-- The pair `h`, `l` is on the stack of `t`, pushed from `s` (R66): SP is 2 lower, and every address reads
as the push leaves it. -/
def State.pushed (s t : State) (h l : Byte) : Prop :=
  t.sp = s.sp - 2 ∧ ∀ p, t.readByte p = s.readAfterPush h l p

/-! ## Forms -/

/-- The bytes of an instruction, and its cycles where these do not depend on the flags. -/
def hasForm (i : Instr) (code : List Byte) (cyc : Nat) : Prop :=
  encode i = code ∧ ∀ f, Instr.cycles f i = cyc

/-- C, Z, O, S, P set to given values and Z, S, P of a result; I kept. -/
def flagsOf (f : Flags) (r : Byte) (c o : Bool) : Flags :=
  { fc := c, fz := decide (r = 0), fo := o, fs := r.msb, fp := decide (popcount r % 2 = 0), fi := f.fi }

/-- An exact signed value that 8 bits cannot hold: signed overflow (10_state.md R29, R38, R39). -/
def overflows (v : Int) : Bool := decide (v < -128 ∨ 127 < v)

end Sys2Proof.Machine
end

