-- ==== Sys2Proof/Certificates/Slice0/Obligations.lean ====
section
/-! DEFINITION. The statements for the provers. A meaning starts from the state whose PC is already past
the instruction (10_state.md R24): `StepRunsDecodedInstruction` says that the step calls it so. Where a
statement rests on a decision of the spec itself (92_eei_decisions.md), its docstring names it. -/

open Sys2Proof Sys2Proof.Machine

/-! ## Encoding (30_encoding.md) -/

/-- R90, R91, R102 to R111: what is encoded decodes to itself, with every operand at every value, and
leaves the bytes that follow. -/
def Obligations.DecodeOfEncode : Prop :=
  ∀ (i : Instr) (rest : List Byte), decode (encode i ++ rest) = .ok (i, rest)

/-- R90, R91: an instruction has one encoding, so that what decodes is what the encoder writes. -/
def Obligations.EncodeOfDecode : Prop :=
  ∀ (code rest : List Byte) (i : Instr), decode code = .ok (i, rest) → encode i ++ rest = code

/-- R118, R121, inferences the spec marks [derived]: the table has 53 rows, 150 first bytes are defined,
and each of them belongs to exactly one row, whatever the bytes that follow. -/
def Obligations.RowsAreDisjoint : Prop :=
  opcodeTable.length = 53 ∧
    ((List.range 256).countP fun n => opcodeDefined (BitVec.ofNat 8 n)) = 150 ∧
    ∀ b0 b1 b2 : Byte,
      (opcodeTable.filter fun r => (r.decode b0 b1 b2).isSome).length = (opcodeDefined b0).toNat

/-- R119: the first bytes of its list select no instruction whatever follows them, and a fetch of one is
the model's fault. That it is a fault is the spec's decision D4 (log 5). -/
def Obligations.UndefinedFirstBytesFault : Prop :=
  (∀ b0 b1 b2 : Byte, decodeBytes b0 b1 b2 = none ↔ opcodeDefined b0 = false) ∧
    ∀ s : State, s.fetches → opcodeDefined (s.readByte s.pc) = false →
      step s = .fault (.illegalOpcode (s.readByte s.pc))

/-- R113: the first byte alone determines the length, which is that of the encoding, at most 3. -/
def Obligations.LengthFromFirstByte : Prop :=
  ∀ (b0 b1 b2 : Byte) (i : Instr), decodeBytes b0 b1 b2 = some i →
    i.length = opcodeLength b0 ∧ (encode i).length = opcodeLength b0 ∧
      1 ≤ opcodeLength b0 ∧ opcodeLength b0 ≤ 3

/-- R107 to R117: words written out from the encodings decode to the instructions they stand for, one of
each format of R91. -/
def Obligations.WrittenWordsDecode : Prop :=
  decodeTableWord 8 0x08 = some .ret ∧
    decodeTableWord 24 0x12340B = some (.call 0x1234) ∧
    decodeTableWord 16 0xFB17 = some (.jnz 0xFB) ∧
    decodeTableWord 16 0x2110 = some (.int 0x21) ∧
    decodeTableWord 8 0x36 = some (.incReg16 .sp) ∧
    decodeTableWord 8 0xA2 = some (.decReg8 .b) ∧
    decodeTableWord 8 0xA0 = some .ror ∧
    decodeTableWord 16 0x3C9C = some (.and (.dat8 0x3C)) ∧
    decodeTableWord 24 0x123470 = some (.movReg8 .b (.mem (.addr 0x1234))) ∧
    decodeTableWord 16 0xFE4B = some (.movMem8 (.atX 0xFE) .c) ∧
    decodeTableWord 24 0x80005A = some (.movReg16 .sp (.dat16 0x8000)) ∧
    decodeTableWord 8 0x57 = some (.movReg16 .x (.reg .sp))

/-- R102, R104, R105, R106, R112, R133 to R135: the code of each operand form, the operand bytes and the
cycles it adds, and what it reads; SP has one code as a destination and another as a source. -/
def Obligations.OperandForms : Prop :=
  (∀ (s : State) (a : Word) (d : Byte) (r : Reg8),
    s.ea (.addr a) = a ∧ s.ea .atBC = concat s.b s.c ∧ s.ea (.atX d) = s.x + d.signExtend 16 ∧
      s.readOp8 (.mem (.addr a)) = s.readByte a ∧
      s.readOp8 (.mem .atBC) = s.readByte (concat s.b s.c) ∧
      s.readOp8 (.mem (.atX d)) = s.readByte (s.x + d.signExtend 16) ∧
      s.readOp8 (.dat8 d) = d ∧ s.readOp8 (.reg .a) = s.a ∧ s.readOp8 (.reg .b) = s.b ∧
      s.readOp8 (.reg .c) = s.c ∧
      s.readOp16 (.reg .bc) = concat s.b s.c ∧ s.readOp16 (.reg .x) = s.x ∧
      s.readOp16 (.reg .sp) = s.sp ∧ s.readOp16 (.dat16 a) = a ∧
      ((Op8.mem (.addr a)).code, (Op8.mem (.addr a)).extraBytes, Op8.extraCycles (.mem (.addr a)))
        = (0b000#3, 2, 11) ∧
      ((Op8.reg r).extraBytes, Op8.extraCycles (.reg r)) = (0, 0) ∧
      ((Op8.dat8 d).code, (Op8.dat8 d).extraBytes, Op8.extraCycles (.dat8 d)) = (0b100#3, 1, 3) ∧
      ((Op8.mem .atBC).code, (Op8.mem .atBC).extraBytes, Op8.extraCycles (.mem .atBC))
        = (0b101#3, 0, 1) ∧
      ((Op8.mem (.atX d)).code, (Op8.mem (.atX d)).extraBytes, Op8.extraCycles (.mem (.atX d)))
        = (0b110#3, 1, 6) ∧
      ((Mem8.addr a).code, (Mem8.addr a).extraBytes, Mem8.extraCycles (.addr a)) = (0b00#2, 2, 11) ∧
      (Mem8.atBC.code, Mem8.atBC.extraBytes, Mem8.extraCycles .atBC) = (0b01#2, 0, 1) ∧
      ((Mem8.atX d).code, (Mem8.atX d).extraBytes, Mem8.extraCycles (.atX d)) = (0b10#2, 1, 6) ∧
      ((Op16.dat16 a).code, (Op16.dat16 a).extraBytes, Op16.extraCycles (.dat16 a)) = (0b10#2, 2, 8)) ∧
    ((Op8.reg .a).code, (Op8.reg .b).code, (Op8.reg .c).code) = (0b001#3, 0b010#3, 0b011#3) ∧
    (Reg8.a.code, Reg8.b.code, Reg8.c.code) = (0b01#2, 0b10#2, 0b11#2) ∧
    (Reg16.bc.code, Reg16.x.code, Reg16.sp.code) = (0b00#2, 0b01#2, 0b10#2) ∧
    ((Op16.reg .bc).code, (Op16.reg .x).code, (Op16.reg .sp).code) = (0b00#2, 0b01#2, 0b11#2) ∧
    (∀ q : Reg16, (Op16.reg q).extraBytes = 0 ∧ Op16.extraCycles (.reg q) = 2) ∧
    encode (.movReg16 .sp (.reg .x)) = [0x59] ∧ encode (.movReg16 .x (.reg .sp)) = [0x57] ∧
    ∀ b1 b2 : Byte,
      decodeOp8 0b111 b1 b2 = none ∧ decodeMem8 0b11 b1 b2 = none ∧ decodeReg8 0b00 = none ∧
        decodeReg16 0b11 = none ∧ ∀ c, (decodeOp16 c b1 b2).isSome = true

/-- R123, an inference the spec marks [derived]: the displacement an assembler computes reaches the
target, and there is one exactly when some displacement reaches it. -/
def Obligations.DisplacementReachesTarget : Prop :=
  ∀ p target : Word,
    (∀ rel : Byte, jcondRel8 p target = some rel ↔ p + 2 + rel.signExtend 16 = target) ∧
      (jcondReaches p target = true ↔ ∃ rel : Byte, p + 2 + rel.signExtend 16 = target)

/-- The model's own (log 31): an instruction placed where the next step fetches is what the decoder reads
from its bits, and nothing stands in the way of that fetch. -/
def Obligations.PlacedWordIsFetched : Prop :=
  ∀ (s : State) (nbits w : Nat),
    (s.withFetchWord nbits w).fetches ∧ (s.withFetchWord nbits w).fetch = decodeTableWord nbits w

/-! ## Memory and the stack (20_memory.md) -/

/-- R72, R73: a byte stored in RAM is read back, a store changes no other byte, and a store that is not
to RAM changes nothing. An address is RAM where no range of the memory map covers it (every address of the
default map), and not RAM where the first range that covers it is ROM or absent. The map and the ignored
store are the spec's decision D13; that the first of two overlapping ranges decides is the model's choice
(log 12). -/
def Obligations.StoreChangesOneByte : Prop :=
  ∀ (s : State) (p q : Word) (v : Byte),
    (s.isRam p = true → (s.writeByte p v).readByte p = v) ∧
      (q ≠ p → (s.writeByte p v).readByte q = s.readByte q) ∧
      (s.isRam p = false → s.writeByte p v = s) ∧
      ((∀ r ∈ s.params.memMap, ¬(r.base ≤ p.toNat ∧ p.toNat < r.base + r.size)) →
        s.isRam p = true ∧ s.isAbsent p = false) ∧
      ∀ (before : List Region) (r : Region) (after : List Region),
        s.params.memMap = before ++ r :: after →
        (∀ e ∈ before, ¬(e.base ≤ p.toNat ∧ p.toNat < e.base + e.size)) →
        r.base ≤ p.toNat → p.toNat < r.base + r.size →
        s.isRam p = false ∧ (s.isAbsent p = true ↔ r.kind = .absent)

/-- R66: where the two bytes of a push go, and what a push leaves alone. Which half goes first is the
spec's decision D1 (log 14). -/
def Obligations.PushStoresHighByteAbove : Prop :=
  ∀ (s : State) (v : Word),
    s.pushed (s.push16 v) (hi v) (lo v) ∧ s.push16 v = { s with sp := s.sp - 2, mem := (s.push16 v).mem }

/-- R67, "A pop is the exact inverse of a push", with the order of the spec's decision D1: after `PUSH X`,
`PUSH BC` or `PUSH AF` in RAM the same pair is popped again, with all six flags, and `POP X` after
`PUSH BC` copies BC to X (R142). -/
def Obligations.PopUndoesPush : Prop :=
  ∀ s : State, s.isRam (s.sp - 1) = true → s.isRam (s.sp - 2) = true →
    (∃ t, exec .pushX s = .next t ∧ exec .popX t = .next { s with mem := t.mem }) ∧
      (∃ t, exec .pushBC s = .next t ∧ exec .popBC t = .next { s with mem := t.mem }) ∧
      (∃ t, exec .pushAF s = .next t ∧ exec .popAF t = .next { s with mem := t.mem }) ∧
      ∃ t, exec .pushBC s = .next t ∧
        exec .popX t = .next { s with mem := t.mem, x := concat s.b s.c }

/-- The memory of the model stays canonical: addresses rising, all below 65,536 (R60). -/
def Obligations.StepKeepsMemoryCanonical : Prop :=
  ∀ s t : State, Memory.wf s.mem = true → step s = .next t → Memory.wf t.mem = true

/-- The memory after reset is canonical. -/
def Obligations.ResetMemoryIsCanonical : Prop :=
  Memory.wf State.reset.mem = true

/-- R77: the fetch after a store sees it, also the very next one, with no instruction between (the
spec's decision D18): after `MOV mem8, reg8` in every form, and after every instruction that pushes, at the
PC it leaves, `CALL` and `INT` at their target (R243, corner cases), with the vector entry as the push left
it. Where the store is not to RAM the fetch reads what stood there (D13). Bits 7 and 6 of a pushed F are
free (log 6); the order of the pushed bytes is D1. -/
def Obligations.NextFetchSeesStore : Prop :=
  ∀ s : State,
    (∀ (dst : Mem8) (r : Reg8),
      let byte := s.readAfterStore (s.ea dst) (s.reg8 r)
      ∃ t, exec (.movMem8 dst r) s = .next t ∧ t.pc = s.pc ∧
        t.fetch = decodeBytes (byte s.pc) (byte (s.pc + 1)) (byte (s.pc + 2))) ∧
    ∀ (target : Word) (v : Byte),
      let entry := fun k : Nat => s.readAfterPush (hi s.pc) (lo s.pc) (BitVec.ofNat 16 (2 * v.toNat + k))
      ∀ row ∈
        [(Instr.pushAF, s.pc, s.a, s.flags.toByte (Config.unusedFBits s.tick)),
          (.pushBC, s.pc, s.b, s.c), (.pushX, s.pc, hi s.x, lo s.x),
          (.call target, target, hi s.pc, lo s.pc),
          (.int v, concat (entry 1) (entry 0), hi s.pc, lo s.pc)],
        let byte := s.readAfterPush row.2.2.1 row.2.2.2
        ∃ t, exec row.1 s = .next t ∧ t.pc = row.2.1 ∧
          t.fetch = decodeBytes (byte row.2.1) (byte (row.2.1 + 1)) (byte (row.2.1 + 2))

/-! ## The step (60_exceptions.md) -/

/-- R332: with no request accepted and the processor not halted, a step decodes the bytes at PC, moves
PC past the instruction, runs it, and passes to the next boundary. -/
def Obligations.StepRunsDecodedInstruction : Prop :=
  ∀ (s : State) (i : Instr), s.fetches →
    decodeBytes (s.readByte s.pc) (s.readByte (s.pc + 1)) (s.readByte (s.pc + 2)) = some i →
    step s =
      match exec i { s with pc := s.pc + BitVec.ofNat 16 i.length } with
      | .next t =>
        .next { t with
          irq := Config.irqOracle (t.tick + 1), tick := t.tick + 1
          cycles := t.cycles + Instr.cycles s.flags i }
      | .fault r => .fault r
      | .refused r => .refused r

/-- R90, R74: the bytes of an instruction stand at PC and the following addresses in ascending order,
wrapping (the spec's decision D3); then a step runs that instruction, whatever byte follows it. -/
def Obligations.EncodedInstructionRuns : Prop :=
  ∀ (s : State) (i : Instr), s.fetches →
    (∀ k (h : k < (encode i).length), s.readByte (s.pc + BitVec.ofNat 16 k) = (encode i)[k]) →
    ∃ t, exec i { s with pc := s.pc + BitVec.ofNat 16 (encode i).length } = .next t ∧
      step s = .next (t.toNextBoundary (Instr.cycles s.flags i))

/-- R339, R341, R345: a request with F.I = 1 is taken before the next fetch, also in the halt state, which
it ends: PC is pushed, PC is loaded from entry V of the table as the push left it, F.I is cleared only
where the parameter says so, and nothing else changes. The reading of F.I, the parameter and the end of
the halt state are the spec's decisions D7, D9 and D10; 22 cycles are its own sum (R317). -/
def Obligations.InterruptEntry : Prop :=
  ∀ (s : State) (v : Byte), s.flags.fi = true → s.irq = some v →
    ∃ t, step s = .next t ∧
      s.pushed { t with tick := s.tick } (hi s.pc) (lo s.pc) ∧
      t.pc = concat (({ t with tick := s.tick } : State).readByte (BitVec.ofNat 16 (2 * v.toNat + 1)))
        (({ t with tick := s.tick } : State).readByte (BitVec.ofNat 16 (2 * v.toNat))) ∧
      t = { s with
        sp := t.sp, pc := t.pc, mem := t.mem, halted := false
        flags := { s.flags with fi := !s.params.hwintClearsFi }
        irq := Config.irqOracle (s.tick + 1), tick := s.tick + 1, cycles := s.cycles + 22 }

/-- R338: with F.I = 0 a request is ignored: the step is the one that no request would give, in every
state, halted or not. That F.I is the enable is the spec's decision D7. -/
def Obligations.DisabledRequestIsIgnored : Prop :=
  ∀ (s : State) (r : Option Byte), s.flags.fi = false → step { s with irq := r } = step s

/-- R341, R355: while the processor is halted and no request is accepted, a step changes nothing the spec
gives the machine (the spec's decision D10). That such a step counts no cycle is the model's choice (log
22): R355 says that the source does not tell whether the clock runs then. R374: at the normal end of a run
no later step changes the state, and none stops (the spec's decision D24, conflict C13). -/
def Obligations.HaltedProcessorKeepsItsState : Prop :=
  (∀ s : State, s.halted = true → s.acceptedRequest = none →
    ∃ t, step s = .next t ∧ s.sameMachine t ∧ t.cycles = s.cycles) ∧
    ∀ s t : State, s.ended → Reaches s t →
      s.sameMachine t ∧ t.result = s.result ∧ t.ended ∧ ∃ u, step t = .next u

/-- R36, R341: the halt state is entered only by `HLT` and left only through the entry of an accepted
interrupt (the spec's decision D10). -/
def Obligations.HaltChangesOnlyByHltAndInterrupt : Prop :=
  ∀ s t : State, step s = .next t →
    (s.halted = false → t.halted = true → s.acceptedRequest = none ∧ s.fetch = some .hlt) ∧
      (s.halted = true → t.halted = false →
        ∃ v, s.flags.fi = true ∧ s.irq = some v ∧
          t = (s.hwInterruptEntry v).toNextBoundary hwInterruptCycles)

/-- R244, R344: `RET` after a `CALL`, an `INT` or the entry of a hardware interrupt comes back to the
pushed PC with SP as it was and nothing else changed but memory, the halt state that an interrupt ended
and F.I where the parameter says so (the spec's decisions D1, D7, D9, D10). -/
def Obligations.ReturnUndoesTransfer : Prop :=
  ∀ (s : State) (target : Word) (v : Byte),
    s.isRam (s.sp - 1) = true → s.isRam (s.sp - 2) = true →
    (∃ t, exec (.call target) s = .next t ∧ exec .ret t = .next { s with mem := t.mem }) ∧
      (∃ t, exec (.int v) s = .next t ∧ exec .ret t = .next { s with mem := t.mem }) ∧
      exec .ret (s.hwInterruptEntry v) =
        .next { s with
          mem := (s.hwInterruptEntry v).mem, halted := false
          flags := { s.flags with fi := s.flags.fi && !s.params.hwintClearsFi } }

/-- The fields that are the model's own (INVENTORY.md, log 7, 13, 21 to 23): a step keeps the parameters,
moves one position on, takes the request the environment presents there, adds at most one event to the
port log, and counts the cycles of what it did. -/
def Obligations.StepKeepsTheModelsOwnFields : Prop :=
  ∀ s t : State, step s = .next t →
    t.params = s.params ∧ t.tick = s.tick + 1 ∧ t.irq = Config.irqOracle t.tick ∧
      (∃ e : List PortEvent, t.portLog = s.portLog ++ e ∧ e.length ≤ 1) ∧
      s.cycles ≤ t.cycles ∧ t.cycles ≤ s.cycles + 30

/-- R370, R371, the spec's decision D6: the reset event loads PC from RESET_PC, ends the halt state and
takes the host's image; every other register and flag keeps whatever value `u` supplies, so that a claim
about all `u` is a claim about every unspecified value (R372 (a)). The first step then fetches at RESET_PC
or takes a request. That the event also keeps the model's own fields, the position in the run (log 21), the
cycle total (log 22) and the port log (log 32), with the request presented (log 7) and the parameters, is
the model's choice. -/
def Obligations.ResetEvent : Prop :=
  ∀ (u : State) (image : Memory),
    (u.afterReset image).pc = u.params.resetPc ∧ (u.afterReset image).halted = false ∧
      (u.afterReset image).mem = image ∧
      u.afterReset image = { u with pc := u.params.resetPc, halted := false, mem := image } ∧
      ((u.afterReset image).fetches ↔ u.acceptedRequest = none)

/-- The model's choices for `State.reset`: the values that log 1 and log 2 name (DESIGN CHOICE), under the
spec's defaults of the other parameters (00_scope.md R6); no statement but this one rests on them. -/
def Obligations.ResetStateOfTheModel : Prop :=
  State.reset.a = 0 ∧ State.reset.b = 0 ∧ State.reset.c = 0 ∧ State.reset.x = 0 ∧ State.reset.sp = 0 ∧
    State.reset.flags = Flags.ofByte 0 ∧ State.reset.pc = 0x0200 ∧ State.reset.halted = false ∧
    State.reset.mem = [] ∧ State.reset.params = ⟨0x0200, true, false, []⟩ ∧ State.reset.portLog = []

/-! ## Frames and completion for every instruction (10_state.md) -/

/-- R33, the marks 0, 1 and N of the whole matrix: every instruction answers a next state, a flag marked
N keeps its value, a flag marked 0 or 1 takes that constant. -/
def Obligations.FlagMatrix : Prop :=
  ∀ (i : Instr) (s : State), ∃ t, exec i s = .next t ∧
    ∀ f : Flag,
      (flagMark i f = .unchanged → t.flags.get f = s.flags.get f) ∧
        (flagMark i f = .zero → t.flags.get f = false) ∧
        (flagMark i f = .one → t.flags.get f = true)

/-- R41, column "writes", R24 and R62: every instruction answers a next state in which every register it
does not write keeps its content (PC keeps the address past the instruction; after `HLT` it does so when
HLT_ADVANCES_PC is true, D10), no address but those it stores to reads otherwise, and no port is
reached but by `IN` and `OUT`. -/
def Obligations.OnlyListedStateChanges : Prop :=
  ∀ (i : Instr) (s : State), ∃ t, exec i s = .next t ∧
    (∀ r : Reg, r ∉ Instr.writes i → (i = .hlt → r = .pc → s.params.hltAdvancesPc = true) →
      t.get r = s.get r) ∧
    (∀ p : Word, p ∉ Instr.stores s i → t.readByte p = s.readByte p) ∧
    (i ≠ .inAC → i ≠ .outCA → t.portLog = s.portLog) ∧
    t.params = s.params ∧ t.tick = s.tick ∧ t.irq = s.irq ∧ t.cycles = s.cycles

/-- R41, column "reads": two states that agree on the registers and flags an instruction reads, on memory
and on what the environment answers, get the same written registers, written flags, memory and port
events from it, whatever else differs. -/
def Obligations.OnlyListedStateIsRead : Prop :=
  ∀ (i : Instr) (s u : State),
    (∀ r ∈ Instr.reads i, s.get r = u.get r) → (∀ f ∈ Instr.readsFlags i, s.flags.get f = u.flags.get f) →
    s.mem = u.mem → s.params = u.params → s.tick = u.tick →
    ∃ t w : State, exec i s = .next t ∧ exec i u = .next w ∧
      (∀ r ∈ Instr.writes i, t.get r = w.get r) ∧
      (∀ f : Flag, flagMark i f ≠ .unchanged → t.flags.get f = w.flags.get f) ∧
      t.mem = w.mem ∧ ∃ e : List PortEvent, t.portLog = s.portLog ++ e ∧ w.portLog = u.portLog ++ e

/-! ## Data transfer (40_data_transfer.md) -/

/-- R130: `MOV reg8, op8` in every form. -/
def Obligations.MovReg8 : Prop :=
  ∀ (s : State) (src : Op8),
    (∀ r : Reg8, hasForm (.movReg8 r src) ((0b011#3 ++ r.code ++ src.code) :: src.operandBytes)
      (7 + Op8.extraCycles src)) ∧
    exec (.movReg8 .a src) s = .next { s with a := s.readOp8 src } ∧
    exec (.movReg8 .b src) s = .next { s with b := s.readOp8 src } ∧
    exec (.movReg8 .c src) s = .next { s with c := s.readOp8 src }

/-- R131: `MOV mem8, reg8` in every form: the byte at the effective address is the register's where that
is RAM, every other address reads as before, and no register or flag changes. That a store outside RAM
is ignored is the spec's decision D13. -/
def Obligations.MovMem8 : Prop :=
  ∀ (s : State) (dst : Mem8) (r : Reg8),
    hasForm (.movMem8 dst r) ((0b0100#4 ++ dst.code ++ r.code) :: dst.operandBytes)
      (7 + Mem8.extraCycles dst) ∧
    ∃ t, exec (.movMem8 dst r) s = .next t ∧ t = { s with mem := t.mem } ∧
      ∀ p, t.readByte p =
        if s.isRam p = true ∧ p = s.ea dst then
          (match r with
            | .a => s.a
            | .b => s.b
            | .c => s.c)
        else s.readByte p

/-- R132: `MOV reg16, op16` in every form; a write of BC writes its halves. -/
def Obligations.MovReg16 : Prop :=
  ∀ (s : State) (src : Op16),
    (∀ r : Reg16, hasForm (.movReg16 r src) ((0b0101#4 ++ r.code ++ src.code) :: src.operandBytes)
      (7 + Op16.extraCycles src)) ∧
    (∃ t, exec (.movReg16 .bc src) s = .next t ∧ t = { s with b := t.b, c := t.c } ∧
      t.b = hi (s.readOp16 src) ∧ t.c = lo (s.readOp16 src) ∧ concat t.b t.c = s.readOp16 src) ∧
    exec (.movReg16 .x src) s = .next { s with x := s.readOp16 src } ∧
    exec (.movReg16 .sp src) s = .next { s with sp := s.readOp16 src }

/-- R137 to R139: the three pushes and what they leave on the stack; only SP and memory change. Bits 7 and 6 of
the byte of F are free (D5, log 6); the order of the bytes is the spec's decision D1. -/
def Obligations.Pushes : Prop :=
  ∀ s : State,
    hasForm .pushAF [0x05] 15 ∧ hasForm .pushBC [0x06] 15 ∧ hasForm .pushX [0x07] 15 ∧
    (∃ t, exec .pushBC s = .next t ∧ s.pushed t s.b s.c ∧ t = { s with sp := t.sp, mem := t.mem }) ∧
    (∃ t, exec .pushX s = .next t ∧ s.pushed t (hi s.x) (lo s.x) ∧
      t = { s with sp := t.sp, mem := t.mem }) ∧
    ∃ (t : State) (f : Byte), exec .pushAF s = .next t ∧ s.pushed t s.a f ∧
      t = { s with sp := t.sp, mem := t.mem } ∧
      f.getLsbD 0 = s.flags.fc ∧ f.getLsbD 1 = s.flags.fz ∧ f.getLsbD 2 = s.flags.fo ∧
      f.getLsbD 3 = s.flags.fs ∧ f.getLsbD 4 = s.flags.fp ∧ f.getLsbD 5 = s.flags.fi

/-- R140 to R142: the three pops; `POP AF` loads all six flags and drops bits 7 and 6. The order of the
bytes is the spec's decision D1. -/
def Obligations.Pops : Prop :=
  ∀ s : State,
    hasForm .popAF [0x01] 15 ∧ hasForm .popBC [0x02] 15 ∧ hasForm .popX [0x03] 15 ∧
    exec .popAF s =
      .next { s with
        a := s.readByte (s.sp + 1)
        flags :=
          { fc := (s.readByte s.sp).getLsbD 0, fz := (s.readByte s.sp).getLsbD 1
            fo := (s.readByte s.sp).getLsbD 2, fs := (s.readByte s.sp).getLsbD 3
            fp := (s.readByte s.sp).getLsbD 4, fi := (s.readByte s.sp).getLsbD 5 }
        sp := s.sp + 2 } ∧
    exec .popBC s = .next { s with b := s.readByte (s.sp + 1), c := s.readByte s.sp, sp := s.sp + 2 } ∧
    exec .popX s =
      .next { s with x := concat (s.readByte (s.sp + 1)) (s.readByte s.sp), sp := s.sp + 2 }

/-! ## Binary arithmetic and logic (41_alu_binary.md) -/

/-- R168: the format, length and cycles that the eight instructions share in all seven operand forms; an
operand A is the old A; only A and the flags change, A not by `CMP`, and never I. -/
def Obligations.BinaryForms : Prop :=
  ∀ (s : State) (src : Op8),
    ∀ p ∈ [(0b10000#5, Instr.cmp), (0b10001#5, .add), (0b10010#5, .adc), (0b10011#5, .and),
      (0b11000#5, .or), (0b11011#5, .sbb), (0b11110#5, .sub), (0b11111#5, .xor)],
      hasForm (p.2 src) ((p.1 ++ src.code) :: src.operandBytes) (7 + Op8.extraCycles src) ∧
        (p.2 src).length = 1 + src.extraBytes ∧
        exec (p.2 (.reg .a)) s = exec (p.2 (.dat8 s.a)) s ∧
        ∃ t, exec (p.2 src) s = .next t ∧ t = { s with a := t.a, flags := t.flags } ∧
          t.flags.fi = s.flags.fi ∧ (p.1 = 0b10000#5 → t.a = s.a)

/-- R160, with O as R29 states it, signed overflow: `ADD A, op8`. -/
def Obligations.AddResult : Prop :=
  ∀ (s : State) (src : Op8),
    encode (.add src) = (0b10001#5 ++ src.code) :: src.operandBytes ∧
    let b := s.readOp8 src
    exec (.add src) s =
      .next { s with
        a := s.a + b
        flags := flagsOf s.flags (s.a + b) (decide (256 ≤ s.a.toNat + b.toNat))
          (overflows (s.a.toInt + b.toInt)) }

/-- R161, with O as R29 states it, signed overflow: `ADC A, op8` reads the old C. -/
def Obligations.AdcResult : Prop :=
  ∀ (s : State) (src : Op8),
    encode (.adc src) = (0b10010#5 ++ src.code) :: src.operandBytes ∧
    let b := s.readOp8 src
    let cin := s.flags.fc
    let r := s.a + b + (if cin then 1 else 0)
    exec (.adc src) s =
      .next { s with
        a := r
        flags := flagsOf s.flags r (decide (256 ≤ s.a.toNat + b.toNat + cin.toNat))
          (overflows (s.a.toInt + b.toInt + cin.toNat)) }

/-- R162, with O as R29 states it, signed overflow: `SUB A, op8`; C is the borrow. That both are those of
the exact difference is the spec's decision D15. -/
def Obligations.SubResult : Prop :=
  ∀ (s : State) (src : Op8),
    encode (.sub src) = (0b11110#5 ++ src.code) :: src.operandBytes ∧
    let b := s.readOp8 src
    exec (.sub src) s =
      .next { s with
        a := s.a - b
        flags := flagsOf s.flags (s.a - b) (decide (s.a.toNat < b.toNat))
          (overflows (s.a.toInt - b.toInt)) }

/-- R163: `SBB A, op8`, of the exact difference A - op8 - C (the spec's decision D15). -/
def Obligations.SbbResult : Prop :=
  ∀ (s : State) (src : Op8),
    encode (.sbb src) = (0b11011#5 ++ src.code) :: src.operandBytes ∧
    let b := s.readOp8 src
    let cin := s.flags.fc
    let r := s.a - b - (if cin then 1 else 0)
    exec (.sbb src) s =
      .next { s with
        a := r
        flags := flagsOf s.flags r (decide (s.a.toNat < b.toNat + cin.toNat))
          (overflows (s.a.toInt - b.toInt - cin.toNat)) }

/-- R164: `CMP A, op8` sets the flags `SUB` sets and keeps A; Z, C and S xor O then order the operands
(the last of these an inference the spec marks [derived]; the flags of the exact difference are its
decision D15). -/
def Obligations.CmpOrdersOperands : Prop :=
  ∀ (s : State) (src : Op8),
    ∃ t u, exec (.cmp src) s = .next t ∧ exec (.sub src) s = .next u ∧
      t = { s with flags := u.flags } ∧
      (t.flags.fz = true ↔ s.a = s.readOp8 src) ∧
      (t.flags.fc = true ↔ s.a.toNat < (s.readOp8 src).toNat) ∧
      ((t.flags.fs ^^ t.flags.fo) = true ↔ s.a.toInt < (s.readOp8 src).toInt)

/-- R165 to R167: `AND`, `OR`, `XOR`, bit by bit, with C and O cleared. -/
def Obligations.LogicResults : Prop :=
  ∀ (s : State) (src : Op8),
    encode (.and src) = (0b10011#5 ++ src.code) :: src.operandBytes ∧
    encode (.or src) = (0b11000#5 ++ src.code) :: src.operandBytes ∧
    encode (.xor src) = (0b11111#5 ++ src.code) :: src.operandBytes ∧
    ∃ x y z : Byte,
      exec (.and src) s = .next { s with a := x, flags := flagsOf s.flags x false false } ∧
      exec (.or src) s = .next { s with a := y, flags := flagsOf s.flags y false false } ∧
      exec (.xor src) s = .next { s with a := z, flags := flagsOf s.flags z false false } ∧
      ∀ k, k < 8 →
        x.getLsbD k = (s.a.getLsbD k && (s.readOp8 src).getLsbD k) ∧
        y.getLsbD k = (s.a.getLsbD k || (s.readOp8 src).getLsbD k) ∧
        z.getLsbD k = (s.a.getLsbD k != (s.readOp8 src).getLsbD k)

/-! ## One operand (42_alu_unary.md) -/

/-- R198, R199: `INC reg8` and `DEC reg8` keep C; O is 1 only for 0x7F counted up and 0x80 counted down
(the spec's decision D14). -/
def Obligations.CountReg8 : Prop :=
  ∀ (s : State) (r : Reg8),
    hasForm (.incReg8 r) [0b101010#6 ++ r.code] 7 ∧ hasForm (.decReg8 r) [0b101000#6 ++ r.code] 7 ∧
    ∃ t u : State,
      exec (.incReg8 r) s = .next t ∧ exec (.decReg8 r) s = .next u ∧
      t.reg8 r = s.reg8 r + 1 ∧ u.reg8 r = s.reg8 r - 1 ∧
      (∀ q, q ≠ r → t.reg8 q = s.reg8 q ∧ u.reg8 q = s.reg8 q) ∧
      t.flags = flagsOf s.flags (s.reg8 r + 1) s.flags.fc (decide (s.reg8 r = 0x7F)) ∧
      u.flags = flagsOf s.flags (s.reg8 r - 1) s.flags.fc (decide (s.reg8 r = 0x80)) ∧
      t = { s with a := t.a, b := t.b, c := t.c, flags := t.flags } ∧
      u = { s with a := u.a, b := u.b, c := u.c, flags := u.flags }

/-- R200, R201: `INC reg16` and `DEC reg16` modulo 65,536 with no flag, BC counting through both halves
(the wrap is the spec's decision D3). -/
def Obligations.CountReg16 : Prop :=
  ∀ s : State,
    (∀ r : Reg16, hasForm (.incReg16 r) [0b001101#6 ++ r.code] 7 ∧
      hasForm (.decReg16 r) [0b001100#6 ++ r.code] 7) ∧
    exec (.incReg16 .x) s = .next { s with x := s.x + 1 } ∧
    exec (.incReg16 .sp) s = .next { s with sp := s.sp + 1 } ∧
    exec (.incReg16 .bc) s =
      .next { s with b := if s.c = 0xFF then s.b + 1 else s.b, c := s.c + 1 } ∧
    exec (.decReg16 .x) s = .next { s with x := s.x - 1 } ∧
    exec (.decReg16 .sp) s = .next { s with sp := s.sp - 1 } ∧
    exec (.decReg16 .bc) s =
      .next { s with b := if s.c = 0 then s.b - 1 else s.b, c := s.c - 1 }

/-- R202: `NEG A` is the two's complement; C is 1 unless A was 0, O is 1 only for 0x80 (the spec's
decision D14, conflict C2). -/
def Obligations.NegResult : Prop :=
  ∀ s : State,
    hasForm .neg [0xB0] 7 ∧
    exec .neg s =
      .next { s with
        a := 0 - s.a, flags := flagsOf s.flags (0 - s.a) (decide (s.a ≠ 0)) (decide (s.a = 0x80)) }

/-- R203: `NOT A`; the parity of the result is that of the old A. -/
def Obligations.NotResult : Prop :=
  ∀ s : State,
    hasForm .not [0xB8] 7 ∧
    (popcount (s.a ^^^ 0xFF) % 2 = popcount s.a % 2) ∧
    exec .not s =
      .next { s with a := ~~~s.a, flags := flagsOf s.flags (~~~s.a) false false }

/-- R204 to R211, the table of R210 bit by bit: new bit 7, new bits 6 to 1, new bit 0, the outgoing bit in
C, O set when bit 7 changed, Z, S, P of the new A alone (the spec's decision D16); nothing else changes. -/
def Obligations.ShiftTable : Prop :=
  ∀ s : State,
    ∀ row ∈
      [(Instr.rol, 0xA8#8, s.a.getLsbD 6, s.a.extractLsb' 0 6, s.a.getLsbD 7, s.a.getLsbD 7),
        (.ror, 0xA0#8, s.a.getLsbD 0, s.a.extractLsb' 2 6, s.a.getLsbD 1, s.a.getLsbD 0),
        (.rcl, 0xC8#8, s.a.getLsbD 6, s.a.extractLsb' 0 6, s.flags.fc, s.a.getLsbD 7),
        (.rcr, 0xD0#8, s.flags.fc, s.a.extractLsb' 2 6, s.a.getLsbD 1, s.a.getLsbD 0),
        (.shl, 0xE0#8, s.a.getLsbD 6, s.a.extractLsb' 0 6, false, s.a.getLsbD 7),
        (.shr, 0xE8#8, false, s.a.extractLsb' 2 6, s.a.getLsbD 1, s.a.getLsbD 0),
        (.sar, 0x40#8, s.a.getLsbD 7, s.a.extractLsb' 2 6, s.a.getLsbD 1, s.a.getLsbD 0)],
      hasForm row.1 [row.2.1] 7 ∧
        ∃ r : Byte,
          r.getLsbD 7 = row.2.2.1 ∧ r.extractLsb' 1 6 = row.2.2.2.1 ∧ r.getLsbD 0 = row.2.2.2.2.1 ∧
            exec row.1 s =
              .next { s with
                a := r
                flags := flagsOf s.flags r row.2.2.2.2.2 (s.a.getLsbD 7 ^^ r.getLsbD 7) }

/-- R204 to R208, the identities of the shifts: `ROL` and `ROR` turn 8 bits, `RCL` and `RCR` turn the 9 bits
of C and A, so that after so many executions A (and C) are back, and the two directions undo each other;
`SHL A` does what `ADD A, A` does, in A and in every flag (an inference the spec marks [derived]). -/
def Obligations.ShiftIdentities : Prop :=
  ∀ s : State,
    (∃ t, repeatExec .rol 8 s = some t ∧ t.a = s.a) ∧
    (∃ t, repeatExec .ror 8 s = some t ∧ t.a = s.a) ∧
    (∃ t, repeatExec .rcl 9 s = some t ∧ t.a = s.a ∧ t.flags.fc = s.flags.fc) ∧
    (∃ t, repeatExec .rcr 9 s = some t ∧ t.a = s.a ∧ t.flags.fc = s.flags.fc) ∧
    (∃ t u, exec .rcl s = .next t ∧ exec .rcr t = .next u ∧ u.a = s.a ∧ u.flags.fc = s.flags.fc) ∧
    (∃ t u, exec .rol s = .next t ∧ exec .ror t = .next u ∧ u.a = s.a) ∧
    ∃ t, exec .shl s = .next t ∧ exec (.add (.reg .a)) s = .next t

/-! ## Control transfer (43_control_transfer.md) -/

/-- R230 to R240: each conditional jump tests one flag; taken, it adds the sign-extended displacement to
the address of the next instruction, modulo 65,536 (the spec's decision D3), in 12 cycles; not taken,
it falls through in 7. Nothing but PC changes. -/
def Obligations.ConditionalJumps : Prop :=
  ∀ (s : State) (rel : Byte),
    ∀ row ∈
      [(Instr.jc rel, 0x11#8, s.flags.fc), (.jnc rel, 0x13#8, !s.flags.fc), (.jo rel, 0x18#8, s.flags.fo),
        (.jno rel, 0x14#8, !s.flags.fo), (.jp rel, 0x19#8, s.flags.fp), (.jnp rel, 0x15#8, !s.flags.fp),
        (.js rel, 0x1A#8, s.flags.fs), (.jns rel, 0x16#8, !s.flags.fs), (.jz rel, 0x1B#8, s.flags.fz),
        (.jnz rel, 0x17#8, !s.flags.fz)],
      encode row.1 = [row.2.1, rel] ∧
        exec row.1 s = .next { s with pc := if row.2.2 then s.pc + rel.signExtend 16 else s.pc } ∧
        Instr.cycles s.flags row.1 = if row.2.2 then 12 else 7

/-- R240, R123: a conditional jump at PC, assembled for a target, goes to it when its condition holds, and
to the address after it when not. The reach is an inference the spec marks [derived]. -/
def Obligations.AssembledJumpGoesToItsTarget : Prop :=
  ∀ (s : State) (target : Word) (rel : Byte) (i : Instr), s.fetches →
    i ∈ [Instr.jc rel, .jnc rel, .jo rel, .jno rel, .jp rel, .jnp rel, .js rel, .jns rel, .jz rel,
      .jnz rel] →
    jcondRel8 s.pc target = some rel →
    (∀ k (h : k < (encode i).length), s.readByte (s.pc + BitVec.ofNat 16 k) = (encode i)[k]) →
    ∃ t, step s = .next t ∧ t.pc = if Instr.taken s.flags i then target else s.pc + 2

/-- R241: `JMP addr`. -/
def Obligations.JmpAddr : Prop :=
  ∀ (s : State) (p : Word),
    hasForm (.jmpAddr p) [0x12, p.extractLsb' 0 8, p.extractLsb' 8 8] 15 ∧
      exec (.jmpAddr p) s = .next { s with pc := p }

/-- R242: `JMP reg16`, `JMP SP` among them (the spec's decision D19). -/
def Obligations.JmpReg16 : Prop :=
  ∀ s : State,
    (∀ r : Reg16, hasForm (.jmpReg r) [0b000111#6 ++ r.code] 5) ∧
      exec (.jmpReg .bc) s = .next { s with pc := concat s.b s.c } ∧
      exec (.jmpReg .x) s = .next { s with pc := s.x } ∧
      exec (.jmpReg .sp) s = .next { s with pc := s.sp }

/-- R243: `CALL addr` pushes the address after it and jumps; the order of the pushed bytes is the spec's
decision D1. -/
def Obligations.CallResult : Prop :=
  ∀ (s : State) (p : Word),
    hasForm (.call p) [0x0B, p.extractLsb' 0 8, p.extractLsb' 8 8] 27 ∧
    ∃ t, exec (.call p) s = .next t ∧ s.pushed t (hi s.pc) (lo s.pc) ∧
      t = { s with sp := t.sp, mem := t.mem, pc := p }

/-- R244: `RET` pops PC and nothing else; the order of the bytes is the spec's decision D1. -/
def Obligations.RetResult : Prop :=
  ∀ s : State,
    hasForm .ret [0x08] 13 ∧
      exec .ret s =
        .next { s with pc := concat (s.readByte (s.sp + 1)) (s.readByte s.sp), sp := s.sp + 2 }

/-- R245: `INT vector` pushes the address after it and jumps through entry V of the table as the push left
it, whatever F.I, which it keeps (the spec's decisions D1, D7, D17). -/
def Obligations.IntResult : Prop :=
  ∀ (s : State) (v : Byte),
    hasForm (.int v) [0x10, v] 30 ∧
    ∃ t, exec (.int v) s = .next t ∧ s.pushed t (hi s.pc) (lo s.pc) ∧
      t.pc = concat (t.readByte (BitVec.ofNat 16 (2 * v.toNat + 1)))
        (t.readByte (BitVec.ofNat 16 (2 * v.toNat))) ∧
      t = { s with sp := t.sp, mem := t.mem, pc := t.pc }

/-! ## System, flags, ports (44_system_io.md) -/

/-- R270, R272 to R275: `NOP` and the four flag instructions. -/
def Obligations.NopAndFlagInstructions : Prop :=
  ∀ s : State,
    hasForm .nop [0x00] 5 ∧ hasForm .clc [0x0D] 5 ∧ hasForm .stc [0x09] 5 ∧ hasForm .cli [0x0C] 5 ∧
      hasForm .sti [0x0A] 5 ∧
      exec .nop s = .next s ∧
      exec .clc s = .next { s with flags := { s.flags with fc := false } } ∧
      exec .stc s = .next { s with flags := { s.flags with fc := true } } ∧
      exec .cli s = .next { s with flags := { s.flags with fi := false } } ∧
      exec .sti s = .next { s with flags := { s.flags with fi := true } }

/-- R271: `HLT` enters the halt state; PC stays past the `HLT`, or is its own address where the parameter
HLT_ADVANCES_PC is false (the spec's decision D10). -/
def Obligations.HltResult : Prop :=
  ∀ s : State,
    hasForm .hlt [0x0E] 3 ∧
      exec .hlt s =
        .next { s with halted := true, pc := if s.params.hltAdvancesPc then s.pc else s.pc - 1 }

/-- R276, R277: `IN A, C` loads what the environment answers at the port in C and changes no flag;
`OUT C, A` sends A to it. The 256 ports and the recording of events are the spec's decision D11 (R61, R374);
the answer is free, by position and port (log 13, log 21), and the log, with an event for `IN` as well, is
the model's own field (log 32). -/
def Obligations.PortInstructions : Prop :=
  ∀ s : State,
    hasForm .inAC [0x0F] 8 ∧ hasForm .outCA [0x20] 8 ∧
      exec .inAC s =
        .next { s with
          a := Config.portOracle s.tick s.c
          portLog := s.portLog ++ [.read s.c (Config.portOracle s.tick s.c)] } ∧
      exec .outCA s = .next { s with portLog := s.portLog ++ [.write s.c s.a] }

/-! ## Datapath and timing (46_alu_microops.md, 70_reset_and_hazards.md) -/

/-- R290: a clocked register keeps its value but on a rising edge, and then loads or counts; that the
count wraps is the spec's decision D3. -/
def Obligations.RegisterControl : Prop :=
  ∀ (cnt dwn : Bool) (input value : Word),
    clockRegister false cnt dwn input value = value ∧
      clockRegister true false dwn input value = input ∧
      clockRegister true true false input value = value + 1 ∧
      clockRegister true true true input value = value - 1

/-- R292, the column "used by", which the spec marks as derived: the result an instruction gives is that of
the ALU function its row names, with the old C for the carry input or with 0 where F_flag cleared it; `CMP`
takes the flags alone of the difference. Every function but the unused code 0001 gives, with its result, its
flags, Z, S and P those of the result (R291, R28, R30, R31); C and O of the pass function are free (log 35),
those of the differences and Z, S, P of the shifts are the spec's decisions D14 to D16. -/
def Obligations.InstructionsUseTheirAluFunction : Prop :=
  (∀ (s : State) (src : Op8) (r : Reg8) (q : Reg16),
    (∀ row ∈
      [(Instr.adc src, alu 0b0010 s.a (s.readOp8 src) s.flags.fc),
        (.add src, alu 0b0010 s.a (s.readOp8 src) false),
        (.and src, alu 0b0011 s.a (s.readOp8 src) s.flags.fc),
        (.neg, alu 0b0110 s.a 0 s.flags.fc), (.not, alu 0b0111 s.a 0 s.flags.fc),
        (.or src, alu 0b1000 s.a (s.readOp8 src) s.flags.fc),
        (.rcl, alu 0b1001 s.a 0 s.flags.fc), (.shl, alu 0b1001 s.a 0 false),
        (.rcr, alu 0b1010 s.a 0 s.flags.fc), (.shr, alu 0b1010 s.a 0 false),
        (.sbb src, alu 0b1011 s.a (s.readOp8 src) s.flags.fc),
        (.sub src, alu 0b1011 s.a (s.readOp8 src) false),
        (.rol, alu 0b1100 s.a 0 s.flags.fc), (.ror, alu 0b1101 s.a 0 s.flags.fc),
        (.sar, alu 0b1110 s.a 0 s.flags.fc),
        (.xor src, alu 0b1111 s.a (s.readOp8 src) s.flags.fc)],
      ∃ t, exec row.1 s = .next t ∧ row.2 = some t.a) ∧
    (∀ row ∈
      [(Instr.movReg8 r src, alu 0b0000 s.a (s.readOp8 src) s.flags.fc),
        (.decReg8 r, alu 0b0100 s.a (s.reg8 r) s.flags.fc),
        (.incReg8 r, alu 0b0101 s.a (s.reg8 r) s.flags.fc)],
      ∃ t, exec row.1 s = .next t ∧ row.2 = some (t.reg8 r)) ∧
    (∃ t, exec (.movReg16 .bc (.reg q)) s = .next t ∧
      alu 0b0000 s.a (lo (s.reg16 q)) s.flags.fc = some t.c ∧
      alu 0b0000 s.a (hi (s.reg16 q)) s.flags.fc = some t.b) ∧
    ∃ t u, exec (.cmp src) s = .next t ∧ t.a = s.a ∧ t.flags.fi = s.flags.fi ∧
      aluOut 0b1011 s.a (s.readOp8 src) false = some u ∧
      (t.flags.fc, t.flags.fz, t.flags.fo, t.flags.fs, t.flags.fp) = (u.c, u.z, u.o, u.s, u.p)) ∧
    ∀ (code : BitVec 4) (ent1 ent2 : Byte) (fc : Bool) (u : AluOut),
      (aluOut code ent1 ent2 fc = some u →
        alu code ent1 ent2 fc = some u.r ∧ u.z = decide (u.r = 0) ∧ u.s = u.r.msb ∧
          u.p = decide (popcount u.r % 2 = 0)) ∧
      (alu code ent1 ent2 fc = none ↔ code = 0b0001) ∧
      (aluOut code ent1 ent2 fc = none ↔ code = 0b0001)

/-- R318, an inference the spec marks [derived]: the cycles of every instruction but `HLT` are the sum of
those of its basic operations, in every operand form and with every flag. -/
def Obligations.BasicOperationsSumToCycles : Prop :=
  ∀ (f : Flags) (i : Instr),
    (∀ ts, Instr.transfers f i = some ts → transferCycles ts = Instr.cycles f i) ∧
      (Instr.transfers f i = none ↔ i = .hlt)

/-- R294 to R317, sequences the spec marks [derived]: the basic operations of every instruction but `HLT`,
run one after another from PC at its first byte, do what its meaning does, whatever CO and DIR held; CO
then holds its first byte. Those of a hardware interrupt push PC and load it from the table, as its entry
does. Byte order, wrap and flags in both are the spec's decisions (D1 to D3, D14 to D17). -/
def Obligations.BasicOperationsCarryOutInstructions : Prop :=
  (∀ (s : State) (i : Instr) (ts : List Transfer) (co : Byte) (dir : Word),
    Instr.transfers s.flags i = some ts →
    (∀ k (h : k < (encode i).length), s.readByte (s.pc + BitVec.ofNat 16 k) = (encode i)[k]) →
    exec i { s with pc := s.pc + BitVec.ofNat 16 (encode i).length } =
        .next (runTransfers ts ⟨s, co, dir⟩).s ∧
      (runTransfers ts ⟨s, co, dir⟩).co = s.readByte s.pc) ∧
    ∀ (s : State) (v co : Byte) (dir : Word),
      s.hwInterruptEntry v =
        { (runTransfers (hwInterruptTransfers v) ⟨s, co, dir⟩).s with
          halted := false
          flags := { s.flags with fi := s.flags.fi && !s.params.hwintClearsFi } }
end

