-- ==== Sys2Proof/Laws/Decode.lean ====
section
/-! SUPPORT. Which row of the opcode table a first byte belongs to: whether a row takes a first byte does
not depend on the bytes that follow, so that the decoder answers what that one row makes of them. -/

namespace Sys2Proof

/-- Whether the row answers does not depend on the bytes after the first. -/
def Row.TakesAnyOperands (r : Row) : Prop :=
  ∀ b0 b1 b2 c1 c2 : Byte, (r.decode b0 b1 b2).isSome = (r.decode b0 c1 c2).isSome

/-- It is enough that the builder has that property. -/
theorem Row.takesAnyOperands_of_build {r : Row}
    (h : ∀ b0 b1 b2 c1 c2 : Byte, (r.build b0 b1 b2).isSome = (r.build b0 c1 c2).isSome) :
    r.TakesAnyOperands := by
  intro b0 b1 b2 c1 c2
  unfold Row.decode
  split
  · exact h b0 b1 b2 c1 c2
  · rfl

/-- Whether an `op8` code selects a form does not depend on the operand bytes. -/
theorem decodeOp8_isSome (c : BitVec 3) (b1 b2 c1 c2 : Byte) :
    (decodeOp8 c b1 b2).isSome = (decodeOp8 c c1 c2).isSome := by
  unfold decodeOp8; split <;> rfl

/-- Whether a `mem8` code selects a form does not depend on the operand bytes. -/
theorem decodeMem8_isSome (c : BitVec 2) (b1 b2 c1 c2 : Byte) :
    (decodeMem8 c b1 b2).isSome = (decodeMem8 c c1 c2).isSome := by
  unfold decodeMem8; split <;> rfl

/-- Every `op16` code selects a form. -/
theorem decodeOp16_isSome (c : BitVec 2) (b1 b2 c1 c2 : Byte) :
    (decodeOp16 c b1 b2).isSome = (decodeOp16 c c1 c2).isSome := by
  unfold decodeOp16; split <;> rfl

/-- Two fields make an instruction when both of them select something. -/
theorem isSome_bind_map {α β γ : Type} (x : Option α) (y : Option β) (f : α → β → γ) :
    (x.bind fun a => y.map fun b => f a b).isSome = (x.isSome && y.isSome) := by
  cases x <;> cases y <;> rfl

theorem rowImpl_takes (mn ops : String) (p : Byte) (i : Instr) :
    (rowImpl mn ops p i).TakesAnyOperands :=
  Row.takesAnyOperands_of_build fun _ _ _ _ _ => rfl

theorem rowByte_takes (mn ops : String) (p : Byte) (mk : Byte → Instr) :
    (rowByte mn ops p mk).TakesAnyOperands :=
  Row.takesAnyOperands_of_build fun _ _ _ _ _ => rfl

theorem rowAddr_takes (mn ops : String) (p : Byte) (mk : Word → Instr) :
    (rowAddr mn ops p mk).TakesAnyOperands :=
  Row.takesAnyOperands_of_build fun _ _ _ _ _ => rfl

theorem rowReg16_takes (mn : String) (p : Byte) (mk : Reg16 → Instr) :
    (rowReg16 mn p mk).TakesAnyOperands :=
  Row.takesAnyOperands_of_build fun _ _ _ _ _ => rfl

theorem rowReg8_takes (mn : String) (p : Byte) (mk : Reg8 → Instr) :
    (rowReg8 mn p mk).TakesAnyOperands :=
  Row.takesAnyOperands_of_build fun _ _ _ _ _ => rfl

theorem rowAlu8_takes (mn : String) (p : Byte) (mk : Op8 → Instr) :
    (rowAlu8 mn p mk).TakesAnyOperands :=
  Row.takesAnyOperands_of_build fun _ b1 b2 c1 c2 => by
    simp only [rowAlu8, Option.isSome_map, decodeOp8_isSome _ b1 b2 c1 c2]

/-- Every row of the table has the property. -/
theorem opcodeTable_takes : ∀ r ∈ opcodeTable, r.TakesAnyOperands := by
  simp only [opcodeTable, rowsControl, rowsTransfer, rowsAlu, List.cons_append, List.nil_append,
    List.forall_mem_cons, rowImpl_takes, rowByte_takes, rowAddr_takes, rowReg16_takes,
    rowReg8_takes, rowAlu8_takes, true_and]
  refine ⟨?_, ?_, ?_, nofun⟩ <;> refine Row.takesAnyOperands_of_build fun b0 b1 b2 c1 c2 => ?_
  · dsimp only
    rw [isSome_bind_map, isSome_bind_map, decodeMem8_isSome _ b1 b2 c1 c2]
  · dsimp only
    rw [isSome_bind_map, isSome_bind_map, decodeOp16_isSome _ b1 b2 c1 c2]
  · dsimp only
    rw [isSome_bind_map, isSome_bind_map, decodeOp8_isSome _ b1 b2 c1 c2]

/-- The number of the first row that takes a first byte; 53 where none does. -/
def rowOf (b0 : Byte) : Nat := opcodeTable.findIdx fun r => (r.decode b0 0 0).isSome

/-- The first answer of a list is that of the first element that answers. -/
theorem findSome?_of_findIdx {α β : Type} (f : α → Option β) (p : α → Bool) (l : List α)
    (hp : ∀ a ∈ l, p a = (f a).isSome) (a : α) (ha : l[l.findIdx p]? = some a) :
    l.findSome? f = f a := by
  induction l with
  | nil => simp at ha
  | cons b l ih =>
    rw [List.findIdx_cons] at ha
    have hb := hp b (by simp)
    cases e : f b with
    | none =>
      simp only [hb, e, Option.isSome_none, cond_false, List.getElem?_cons_succ] at ha
      simpa [e] using ih (fun c hc => hp c (by simp [hc])) ha
    | some x =>
      simp only [hb, e, Option.isSome_some, cond_true, List.getElem?_cons_zero] at ha
      injection ha with ha
      subst ha
      simp [e]

/-- The decoder answers what the first row that takes the first byte makes of the three bytes. -/
theorem decodeBytes_of_row {b0 : Byte} {r : Row} (h : opcodeTable[rowOf b0]? = some r) (b1 b2 : Byte) :
    decodeBytes b0 b1 b2 = r.decode b0 b1 b2 :=
  findSome?_of_findIdx _ _ _ (fun q hq => opcodeTable_takes q hq b0 0 0 b1 b2) r h

/-- The decoder refuses a first byte that no row takes. -/
theorem decodeBytes_of_no_row {b0 : Byte} (h : rowOf b0 = 53) (b1 b2 : Byte) :
    decodeBytes b0 b1 b2 = none := by
  unfold decodeBytes
  rw [List.findSome?_eq_none_iff]
  intro r hr
  have hn : ¬ (r.decode b0 0 0).isSome = true := by
    intro hs
    have hlt : rowOf b0 < opcodeTable.length := List.findIdx_lt_length_of_exists ⟨r, hr, hs⟩
    rw [h] at hlt
    exact absurd hlt (by decide)
  rw [opcodeTable_takes r hr b0 0 0 b1 b2] at hn
  simpa using hn

end Sys2Proof
end

