-- ==== Sys2Proof/Laws/Memory.lean ====
section
/-! SUPPORT. Memory as a list of cells: a read after a write, and the canonical form, which every memory
operation keeps. -/

namespace Sys2Proof.Machine

/-- A read of the address written gives the byte written. -/
theorem Memory.read?_write_same (m : Memory) (a : Nat) (v : Byte) :
    Memory.read? (Memory.write m a v) a = some v := by
  induction m with
  | nil => simp [Memory.write, Memory.read?]
  | cons p rest ih =>
    obtain ⟨k, w⟩ := p
    by_cases h : a < k
    · simp [Memory.write, Memory.read?, h]
    · by_cases e : a = k
      · simp [Memory.write, Memory.read?, e]
      · simp [Memory.write, Memory.read?, h, e, ih]

/-- A read of any other address gives what it gave before. -/
theorem Memory.read?_write_other (m : Memory) {a b : Nat} (v : Byte) (hne : b ≠ a) :
    Memory.read? (Memory.write m a v) b = Memory.read? m b := by
  induction m with
  | nil => simp [Memory.write, Memory.read?, hne]
  | cons p rest ih =>
    obtain ⟨k, w⟩ := p
    by_cases h : a < k
    · simp [Memory.write, Memory.read?, h, hne]
    · by_cases e : a = k
      · subst e; simp [Memory.write, Memory.read?, hne]
      · simp [Memory.write, Memory.read?, h, e, ih]

/-- The first address of a list of cells, if any, lies above `k`. -/
abbrev startsAbove (k : Nat) : Memory → Prop
  | [] => True
  | (j, _) :: _ => k < j

/-- The canonical form, cell by cell. -/
theorem cellsWf_cons (k : Nat) (v : Byte) (m : Memory) :
    cellsWf ((k, v) :: m) = true ↔ k < 65536 ∧ startsAbove k m ∧ cellsWf m = true := by
  induction m generalizing k v with
  | nil => simp [cellsWf]
  | cons p rest ih =>
    obtain ⟨j, w⟩ := p
    simp only [cellsWf, Bool.and_eq_true, decide_eq_true_eq]
    constructor
    · rintro ⟨h1, h2⟩
      exact ⟨lt_trans h1 ((ih j w).1 h2).1, h1, h2⟩
    · rintro ⟨-, h1, h2⟩
      exact ⟨h1, h2⟩

/-- A write below the first address of a list, or above `k`, leaves it above `k`. -/
theorem startsAbove_write {k a : Nat} {v : Byte} {m : Memory} (hm : startsAbove k m) (ha : k < a) :
    startsAbove k (Memory.write m a v) := by
  cases m with
  | nil => exact ha
  | cons p rest =>
    obtain ⟨j, w⟩ := p
    simp only [Memory.write]
    split
    · exact ha
    · split
      · exact ha
      · exact hm

/-- A write inside the address space keeps the canonical form. -/
theorem Memory.wf_write {m : Memory} {a : Nat} (v : Byte) (ha : a < 65536) (hm : Memory.wf m = true) :
    Memory.wf (Memory.write m a v) = true := by
  induction m with
  | nil => simpa [Memory.write, Memory.wf, cellsWf] using ha
  | cons p rest ih =>
    obtain ⟨k, w⟩ := p
    have hc := (cellsWf_cons k w rest).1 hm
    simp only [Memory.write]
    split
    · next h => exact (cellsWf_cons a v _).2 ⟨ha, h, hm⟩
    · split
      · next h e => exact (cellsWf_cons a v rest).2 ⟨ha, e ▸ hc.2.1, hc.2.2⟩
      · next h e =>
        exact (cellsWf_cons k w _).2
          ⟨hc.1, startsAbove_write hc.2.1 (by omega), ih hc.2.2⟩

/-- A store of the machine keeps the canonical form. -/
theorem State.writeByte_wf {s : State} (a : Word) (v : Byte) (h : Memory.wf s.mem = true) :
    Memory.wf (s.writeByte a v).mem = true := by
  unfold State.writeByte
  dsimp only
  split
  · exact Memory.wf_write v a.isLt h
  · exact h

/-- A push keeps the canonical form. -/
theorem State.push_wf {s : State} (hb lb : Byte) (h : Memory.wf s.mem = true) :
    Memory.wf (s.push hb lb).mem = true :=
  State.writeByte_wf _ _ (State.writeByte_wf (s := { s with sp := s.sp - 1 }) _ _ h)

/-- A push of a word keeps the canonical form. -/
theorem State.push16_wf {s : State} (v : Word) (h : Memory.wf s.mem = true) :
    Memory.wf (s.push16 v).mem = true :=
  State.push_wf _ _ h

/-- The transfer through the vector table keeps the canonical form. -/
theorem State.takeVector_wf {s : State} (v : Byte) (h : Memory.wf s.mem = true) :
    Memory.wf (s.takeVector v).mem = true :=
  State.push16_wf s.pc h

/-- The placing of an instruction for the next fetch keeps the canonical form. -/
theorem State.placeBytes_wf {s : State} (b0 b1 b2 : Byte) (h : Memory.wf s.mem = true) :
    Memory.wf (s.placeBytes b0 b1 b2).mem = true :=
  Memory.wf_write _ (BitVec.isLt _) (Memory.wf_write _ (BitVec.isLt _) (Memory.wf_write _ (BitVec.isLt _) h))

end Sys2Proof.Machine
end

