-- ==== Sys2Proof/Laws/State.lean ====
section
/-! SUPPORT. One lemma per field per update, so that no proof unfolds a record update. -/

namespace Sys2Proof.Machine

/-! ### writeByte -/

@[simp] theorem State.writeByte_a (s : State) (p : Word) (v : Byte) :
    (s.writeByte p v).a = s.a := rfl

@[simp] theorem State.writeByte_b (s : State) (p : Word) (v : Byte) :
    (s.writeByte p v).b = s.b := rfl

@[simp] theorem State.writeByte_c (s : State) (p : Word) (v : Byte) :
    (s.writeByte p v).c = s.c := rfl

@[simp] theorem State.writeByte_flags (s : State) (p : Word) (v : Byte) :
    (s.writeByte p v).flags = s.flags := rfl

@[simp] theorem State.writeByte_x (s : State) (p : Word) (v : Byte) :
    (s.writeByte p v).x = s.x := rfl

@[simp] theorem State.writeByte_sp (s : State) (p : Word) (v : Byte) :
    (s.writeByte p v).sp = s.sp := rfl

@[simp] theorem State.writeByte_pc (s : State) (p : Word) (v : Byte) :
    (s.writeByte p v).pc = s.pc := rfl

@[simp] theorem State.writeByte_halted (s : State) (p : Word) (v : Byte) :
    (s.writeByte p v).halted = s.halted := rfl

@[simp] theorem State.writeByte_mem (s : State) (p : Word) (v : Byte) :
    (s.writeByte p v).mem = if s.isRam p then Memory.write s.mem p.toNat v else s.mem := rfl

@[simp] theorem State.writeByte_params (s : State) (p : Word) (v : Byte) :
    (s.writeByte p v).params = s.params := rfl

@[simp] theorem State.writeByte_irq (s : State) (p : Word) (v : Byte) :
    (s.writeByte p v).irq = s.irq := rfl

@[simp] theorem State.writeByte_tick (s : State) (p : Word) (v : Byte) :
    (s.writeByte p v).tick = s.tick := rfl

@[simp] theorem State.writeByte_portLog (s : State) (p : Word) (v : Byte) :
    (s.writeByte p v).portLog = s.portLog := rfl

@[simp] theorem State.writeByte_cycles (s : State) (p : Word) (v : Byte) :
    (s.writeByte p v).cycles = s.cycles := rfl

/-! ### setReg8 -/

@[simp] theorem State.setReg8_a (s : State) (r : Reg8) (v : Byte) :
    (s.setReg8 r v).a = if r = .a then v else s.a := by cases r <;> rfl

@[simp] theorem State.setReg8_b (s : State) (r : Reg8) (v : Byte) :
    (s.setReg8 r v).b = if r = .b then v else s.b := by cases r <;> rfl

@[simp] theorem State.setReg8_c (s : State) (r : Reg8) (v : Byte) :
    (s.setReg8 r v).c = if r = .c then v else s.c := by cases r <;> rfl

@[simp] theorem State.setReg8_flags (s : State) (r : Reg8) (v : Byte) :
    (s.setReg8 r v).flags = s.flags := by cases r <;> rfl

@[simp] theorem State.setReg8_x (s : State) (r : Reg8) (v : Byte) :
    (s.setReg8 r v).x = s.x := by cases r <;> rfl

@[simp] theorem State.setReg8_sp (s : State) (r : Reg8) (v : Byte) :
    (s.setReg8 r v).sp = s.sp := by cases r <;> rfl

@[simp] theorem State.setReg8_pc (s : State) (r : Reg8) (v : Byte) :
    (s.setReg8 r v).pc = s.pc := by cases r <;> rfl

@[simp] theorem State.setReg8_halted (s : State) (r : Reg8) (v : Byte) :
    (s.setReg8 r v).halted = s.halted := by cases r <;> rfl

@[simp] theorem State.setReg8_mem (s : State) (r : Reg8) (v : Byte) :
    (s.setReg8 r v).mem = s.mem := by cases r <;> rfl

@[simp] theorem State.setReg8_params (s : State) (r : Reg8) (v : Byte) :
    (s.setReg8 r v).params = s.params := by cases r <;> rfl

@[simp] theorem State.setReg8_irq (s : State) (r : Reg8) (v : Byte) :
    (s.setReg8 r v).irq = s.irq := by cases r <;> rfl

@[simp] theorem State.setReg8_tick (s : State) (r : Reg8) (v : Byte) :
    (s.setReg8 r v).tick = s.tick := by cases r <;> rfl

@[simp] theorem State.setReg8_portLog (s : State) (r : Reg8) (v : Byte) :
    (s.setReg8 r v).portLog = s.portLog := by cases r <;> rfl

@[simp] theorem State.setReg8_cycles (s : State) (r : Reg8) (v : Byte) :
    (s.setReg8 r v).cycles = s.cycles := by cases r <;> rfl

/-! ### setReg16 -/

@[simp] theorem State.setReg16_a (s : State) (r : Reg16) (v : Word) :
    (s.setReg16 r v).a = s.a := by cases r <;> rfl

@[simp] theorem State.setReg16_b (s : State) (r : Reg16) (v : Word) :
    (s.setReg16 r v).b = if r = .bc then hi v else s.b := by cases r <;> rfl

@[simp] theorem State.setReg16_c (s : State) (r : Reg16) (v : Word) :
    (s.setReg16 r v).c = if r = .bc then lo v else s.c := by cases r <;> rfl

@[simp] theorem State.setReg16_flags (s : State) (r : Reg16) (v : Word) :
    (s.setReg16 r v).flags = s.flags := by cases r <;> rfl

@[simp] theorem State.setReg16_x (s : State) (r : Reg16) (v : Word) :
    (s.setReg16 r v).x = if r = .x then v else s.x := by cases r <;> rfl

@[simp] theorem State.setReg16_sp (s : State) (r : Reg16) (v : Word) :
    (s.setReg16 r v).sp = if r = .sp then v else s.sp := by cases r <;> rfl

@[simp] theorem State.setReg16_pc (s : State) (r : Reg16) (v : Word) :
    (s.setReg16 r v).pc = s.pc := by cases r <;> rfl

@[simp] theorem State.setReg16_halted (s : State) (r : Reg16) (v : Word) :
    (s.setReg16 r v).halted = s.halted := by cases r <;> rfl

@[simp] theorem State.setReg16_mem (s : State) (r : Reg16) (v : Word) :
    (s.setReg16 r v).mem = s.mem := by cases r <;> rfl

@[simp] theorem State.setReg16_params (s : State) (r : Reg16) (v : Word) :
    (s.setReg16 r v).params = s.params := by cases r <;> rfl

@[simp] theorem State.setReg16_irq (s : State) (r : Reg16) (v : Word) :
    (s.setReg16 r v).irq = s.irq := by cases r <;> rfl

@[simp] theorem State.setReg16_tick (s : State) (r : Reg16) (v : Word) :
    (s.setReg16 r v).tick = s.tick := by cases r <;> rfl

@[simp] theorem State.setReg16_portLog (s : State) (r : Reg16) (v : Word) :
    (s.setReg16 r v).portLog = s.portLog := by cases r <;> rfl

@[simp] theorem State.setReg16_cycles (s : State) (r : Reg16) (v : Word) :
    (s.setReg16 r v).cycles = s.cycles := by cases r <;> rfl

/-! ### setAlu -/

@[simp] theorem State.setAlu_a (s : State) (u : AluOut) : (s.setAlu u).a = u.r := rfl

@[simp] theorem State.setAlu_b (s : State) (u : AluOut) : (s.setAlu u).b = s.b := rfl

@[simp] theorem State.setAlu_c (s : State) (u : AluOut) : (s.setAlu u).c = s.c := rfl

@[simp] theorem State.setAlu_flags (s : State) (u : AluOut) :
    (s.setAlu u).flags = s.flags.setCzosp u := rfl

@[simp] theorem State.setAlu_x (s : State) (u : AluOut) : (s.setAlu u).x = s.x := rfl

@[simp] theorem State.setAlu_sp (s : State) (u : AluOut) : (s.setAlu u).sp = s.sp := rfl

@[simp] theorem State.setAlu_pc (s : State) (u : AluOut) : (s.setAlu u).pc = s.pc := rfl

@[simp] theorem State.setAlu_halted (s : State) (u : AluOut) :
    (s.setAlu u).halted = s.halted := rfl

@[simp] theorem State.setAlu_mem (s : State) (u : AluOut) : (s.setAlu u).mem = s.mem := rfl

@[simp] theorem State.setAlu_params (s : State) (u : AluOut) :
    (s.setAlu u).params = s.params := rfl

@[simp] theorem State.setAlu_irq (s : State) (u : AluOut) : (s.setAlu u).irq = s.irq := rfl

@[simp] theorem State.setAlu_tick (s : State) (u : AluOut) : (s.setAlu u).tick = s.tick := rfl

@[simp] theorem State.setAlu_portLog (s : State) (u : AluOut) :
    (s.setAlu u).portLog = s.portLog := rfl

@[simp] theorem State.setAlu_cycles (s : State) (u : AluOut) :
    (s.setAlu u).cycles = s.cycles := rfl

/-! ### push -/

@[simp] theorem State.push_a (s : State) (h l : Byte) : (s.push h l).a = s.a := rfl

@[simp] theorem State.push_b (s : State) (h l : Byte) : (s.push h l).b = s.b := rfl

@[simp] theorem State.push_c (s : State) (h l : Byte) : (s.push h l).c = s.c := rfl

@[simp] theorem State.push_flags (s : State) (h l : Byte) : (s.push h l).flags = s.flags := rfl

@[simp] theorem State.push_x (s : State) (h l : Byte) : (s.push h l).x = s.x := rfl

@[simp] theorem State.push_sp (s : State) (h l : Byte) : (s.push h l).sp = s.sp - 1 - 1 := rfl

@[simp] theorem State.push_pc (s : State) (h l : Byte) : (s.push h l).pc = s.pc := rfl

@[simp] theorem State.push_halted (s : State) (h l : Byte) : (s.push h l).halted = s.halted := rfl

@[simp] theorem State.push_params (s : State) (h l : Byte) : (s.push h l).params = s.params := rfl

@[simp] theorem State.push_irq (s : State) (h l : Byte) : (s.push h l).irq = s.irq := rfl

@[simp] theorem State.push_tick (s : State) (h l : Byte) : (s.push h l).tick = s.tick := rfl

@[simp] theorem State.push_portLog (s : State) (h l : Byte) :
    (s.push h l).portLog = s.portLog := rfl

@[simp] theorem State.push_cycles (s : State) (h l : Byte) : (s.push h l).cycles = s.cycles := rfl

/-! ### push16 -/

@[simp] theorem State.push16_a (s : State) (v : Word) : (s.push16 v).a = s.a := rfl

@[simp] theorem State.push16_b (s : State) (v : Word) : (s.push16 v).b = s.b := rfl

@[simp] theorem State.push16_c (s : State) (v : Word) : (s.push16 v).c = s.c := rfl

@[simp] theorem State.push16_flags (s : State) (v : Word) : (s.push16 v).flags = s.flags := rfl

@[simp] theorem State.push16_x (s : State) (v : Word) : (s.push16 v).x = s.x := rfl

@[simp] theorem State.push16_sp (s : State) (v : Word) : (s.push16 v).sp = s.sp - 1 - 1 := rfl

@[simp] theorem State.push16_pc (s : State) (v : Word) : (s.push16 v).pc = s.pc := rfl

@[simp] theorem State.push16_halted (s : State) (v : Word) : (s.push16 v).halted = s.halted := rfl

@[simp] theorem State.push16_params (s : State) (v : Word) : (s.push16 v).params = s.params := rfl

@[simp] theorem State.push16_irq (s : State) (v : Word) : (s.push16 v).irq = s.irq := rfl

@[simp] theorem State.push16_tick (s : State) (v : Word) : (s.push16 v).tick = s.tick := rfl

@[simp] theorem State.push16_portLog (s : State) (v : Word) :
    (s.push16 v).portLog = s.portLog := rfl

@[simp] theorem State.push16_cycles (s : State) (v : Word) : (s.push16 v).cycles = s.cycles := rfl

/-! ### dropPair -/

@[simp] theorem State.dropPair_a (s : State) : (s.dropPair).a = s.a := rfl

@[simp] theorem State.dropPair_b (s : State) : (s.dropPair).b = s.b := rfl

@[simp] theorem State.dropPair_c (s : State) : (s.dropPair).c = s.c := rfl

@[simp] theorem State.dropPair_flags (s : State) : (s.dropPair).flags = s.flags := rfl

@[simp] theorem State.dropPair_x (s : State) : (s.dropPair).x = s.x := rfl

@[simp] theorem State.dropPair_sp (s : State) : (s.dropPair).sp = s.sp + 2 := rfl

@[simp] theorem State.dropPair_pc (s : State) : (s.dropPair).pc = s.pc := rfl

@[simp] theorem State.dropPair_halted (s : State) : (s.dropPair).halted = s.halted := rfl

@[simp] theorem State.dropPair_mem (s : State) : (s.dropPair).mem = s.mem := rfl

@[simp] theorem State.dropPair_params (s : State) : (s.dropPair).params = s.params := rfl

@[simp] theorem State.dropPair_irq (s : State) : (s.dropPair).irq = s.irq := rfl

@[simp] theorem State.dropPair_tick (s : State) : (s.dropPair).tick = s.tick := rfl

@[simp] theorem State.dropPair_portLog (s : State) : (s.dropPair).portLog = s.portLog := rfl

@[simp] theorem State.dropPair_cycles (s : State) : (s.dropPair).cycles = s.cycles := rfl

/-! ### returnPop -/

@[simp] theorem State.returnPop_a (s : State) : (s.returnPop).a = s.a := rfl

@[simp] theorem State.returnPop_b (s : State) : (s.returnPop).b = s.b := rfl

@[simp] theorem State.returnPop_c (s : State) : (s.returnPop).c = s.c := rfl

@[simp] theorem State.returnPop_flags (s : State) : (s.returnPop).flags = s.flags := rfl

@[simp] theorem State.returnPop_x (s : State) : (s.returnPop).x = s.x := rfl

@[simp] theorem State.returnPop_sp (s : State) : (s.returnPop).sp = s.sp + 2 := rfl

@[simp] theorem State.returnPop_pc (s : State) :
    (s.returnPop).pc = concat s.popHigh s.popLow := rfl

@[simp] theorem State.returnPop_halted (s : State) : (s.returnPop).halted = s.halted := rfl

@[simp] theorem State.returnPop_mem (s : State) : (s.returnPop).mem = s.mem := rfl

@[simp] theorem State.returnPop_params (s : State) : (s.returnPop).params = s.params := rfl

@[simp] theorem State.returnPop_irq (s : State) : (s.returnPop).irq = s.irq := rfl

@[simp] theorem State.returnPop_tick (s : State) : (s.returnPop).tick = s.tick := rfl

@[simp] theorem State.returnPop_portLog (s : State) : (s.returnPop).portLog = s.portLog := rfl

@[simp] theorem State.returnPop_cycles (s : State) : (s.returnPop).cycles = s.cycles := rfl

/-! ### portWrite -/

@[simp] theorem State.portWrite_a (s : State) (p v : Byte) : (s.portWrite p v).a = s.a := rfl

@[simp] theorem State.portWrite_b (s : State) (p v : Byte) : (s.portWrite p v).b = s.b := rfl

@[simp] theorem State.portWrite_c (s : State) (p v : Byte) : (s.portWrite p v).c = s.c := rfl

@[simp] theorem State.portWrite_flags (s : State) (p v : Byte) :
    (s.portWrite p v).flags = s.flags := rfl

@[simp] theorem State.portWrite_x (s : State) (p v : Byte) : (s.portWrite p v).x = s.x := rfl

@[simp] theorem State.portWrite_sp (s : State) (p v : Byte) : (s.portWrite p v).sp = s.sp := rfl

@[simp] theorem State.portWrite_pc (s : State) (p v : Byte) : (s.portWrite p v).pc = s.pc := rfl

@[simp] theorem State.portWrite_halted (s : State) (p v : Byte) :
    (s.portWrite p v).halted = s.halted := rfl

@[simp] theorem State.portWrite_mem (s : State) (p v : Byte) :
    (s.portWrite p v).mem = s.mem := rfl

@[simp] theorem State.portWrite_params (s : State) (p v : Byte) :
    (s.portWrite p v).params = s.params := rfl

@[simp] theorem State.portWrite_irq (s : State) (p v : Byte) :
    (s.portWrite p v).irq = s.irq := rfl

@[simp] theorem State.portWrite_tick (s : State) (p v : Byte) :
    (s.portWrite p v).tick = s.tick := rfl

@[simp] theorem State.portWrite_portLog (s : State) (p v : Byte) :
    (s.portWrite p v).portLog = s.portLog ++ [.write p v] := rfl

@[simp] theorem State.portWrite_cycles (s : State) (p v : Byte) :
    (s.portWrite p v).cycles = s.cycles := rfl

/-! ### portRead -/

@[simp] theorem State.portRead_snd_a (s : State) (p : Byte) : (s.portRead p).2.a = s.a := rfl

@[simp] theorem State.portRead_snd_b (s : State) (p : Byte) : (s.portRead p).2.b = s.b := rfl

@[simp] theorem State.portRead_snd_c (s : State) (p : Byte) : (s.portRead p).2.c = s.c := rfl

@[simp] theorem State.portRead_flags (s : State) (p : Byte) :
    (s.portRead p).2.flags = s.flags := rfl

@[simp] theorem State.portRead_snd_x (s : State) (p : Byte) : (s.portRead p).2.x = s.x := rfl

@[simp] theorem State.portRead_snd_sp (s : State) (p : Byte) : (s.portRead p).2.sp = s.sp := rfl

@[simp] theorem State.portRead_snd_pc (s : State) (p : Byte) : (s.portRead p).2.pc = s.pc := rfl

@[simp] theorem State.portRead_halted (s : State) (p : Byte) :
    (s.portRead p).2.halted = s.halted := rfl

@[simp] theorem State.portRead_snd_mem (s : State) (p : Byte) : (s.portRead p).2.mem = s.mem := rfl

@[simp] theorem State.portRead_params (s : State) (p : Byte) :
    (s.portRead p).2.params = s.params := rfl

@[simp] theorem State.portRead_snd_irq (s : State) (p : Byte) : (s.portRead p).2.irq = s.irq := rfl

@[simp] theorem State.portRead_snd_tick (s : State) (p : Byte) : (s.portRead p).2.tick = s.tick := rfl

@[simp] theorem State.portRead_portLog (s : State) (p : Byte) :
    (s.portRead p).2.portLog = s.portLog ++ [.read p (Config.portOracle s.tick p)] := rfl

@[simp] theorem State.portRead_cycles (s : State) (p : Byte) :
    (s.portRead p).2.cycles = s.cycles := rfl

/-! ### takeVector -/

@[simp] theorem State.takeVector_a (s : State) (v : Byte) : (s.takeVector v).a = s.a := rfl

@[simp] theorem State.takeVector_b (s : State) (v : Byte) : (s.takeVector v).b = s.b := rfl

@[simp] theorem State.takeVector_c (s : State) (v : Byte) : (s.takeVector v).c = s.c := rfl

@[simp] theorem State.takeVector_flags (s : State) (v : Byte) :
    (s.takeVector v).flags = s.flags := rfl

@[simp] theorem State.takeVector_x (s : State) (v : Byte) : (s.takeVector v).x = s.x := rfl

@[simp] theorem State.takeVector_sp (s : State) (v : Byte) :
    (s.takeVector v).sp = s.sp - 1 - 1 := rfl

@[simp] theorem State.takeVector_pc (s : State) (v : Byte) :
    (s.takeVector v).pc = (s.push16 s.pc).vectorEntry v := rfl

@[simp] theorem State.takeVector_halted (s : State) (v : Byte) :
    (s.takeVector v).halted = s.halted := rfl

@[simp] theorem State.takeVector_mem (s : State) (v : Byte) :
    (s.takeVector v).mem = (s.push16 s.pc).mem := rfl

@[simp] theorem State.takeVector_params (s : State) (v : Byte) :
    (s.takeVector v).params = s.params := rfl

@[simp] theorem State.takeVector_irq (s : State) (v : Byte) : (s.takeVector v).irq = s.irq := rfl

@[simp] theorem State.takeVector_tick (s : State) (v : Byte) :
    (s.takeVector v).tick = s.tick := rfl

@[simp] theorem State.takeVector_portLog (s : State) (v : Byte) :
    (s.takeVector v).portLog = s.portLog := rfl

@[simp] theorem State.takeVector_cycles (s : State) (v : Byte) :
    (s.takeVector v).cycles = s.cycles := rfl

/-! ### hwInterruptEntry -/

@[simp] theorem State.hwInterruptEntry_a (s : State) (v : Byte) :
    (s.hwInterruptEntry v).a = s.a := rfl

@[simp] theorem State.hwInterruptEntry_b (s : State) (v : Byte) :
    (s.hwInterruptEntry v).b = s.b := rfl

@[simp] theorem State.hwInterruptEntry_c (s : State) (v : Byte) :
    (s.hwInterruptEntry v).c = s.c := rfl

@[simp] theorem State.hwInterruptEntry_flags (s : State) (v : Byte) :
    (s.hwInterruptEntry v).flags = if s.params.hwintClearsFi then { s.flags with fi := false } else s.flags := rfl

@[simp] theorem State.hwInterruptEntry_x (s : State) (v : Byte) :
    (s.hwInterruptEntry v).x = s.x := rfl

@[simp] theorem State.hwInterruptEntry_sp (s : State) (v : Byte) :
    (s.hwInterruptEntry v).sp = s.sp - 1 - 1 := rfl

@[simp] theorem State.hwInterruptEntry_pc (s : State) (v : Byte) :
    (s.hwInterruptEntry v).pc = (s.push16 s.pc).vectorEntry v := rfl

@[simp] theorem State.hwInterruptEntry_halted (s : State) (v : Byte) :
    (s.hwInterruptEntry v).halted = false := rfl

@[simp] theorem State.hwInterruptEntry_mem (s : State) (v : Byte) :
    (s.hwInterruptEntry v).mem = (s.push16 s.pc).mem := rfl

@[simp] theorem State.hwInterruptEntry_params (s : State) (v : Byte) :
    (s.hwInterruptEntry v).params = s.params := rfl

@[simp] theorem State.hwInterruptEntry_irq (s : State) (v : Byte) :
    (s.hwInterruptEntry v).irq = s.irq := rfl

@[simp] theorem State.hwInterruptEntry_tick (s : State) (v : Byte) :
    (s.hwInterruptEntry v).tick = s.tick := rfl

@[simp] theorem State.hwInterruptEntry_portLog (s : State) (v : Byte) :
    (s.hwInterruptEntry v).portLog = s.portLog := rfl

@[simp] theorem State.hwInterruptEntry_cycles (s : State) (v : Byte) :
    (s.hwInterruptEntry v).cycles = s.cycles := rfl

/-! ### jumpIf -/

@[simp] theorem State.jumpIf_a (s : State) (cond : Bool) (d : Byte) :
    (s.jumpIf cond d).a = s.a := by cases cond <;> rfl

@[simp] theorem State.jumpIf_b (s : State) (cond : Bool) (d : Byte) :
    (s.jumpIf cond d).b = s.b := by cases cond <;> rfl

@[simp] theorem State.jumpIf_c (s : State) (cond : Bool) (d : Byte) :
    (s.jumpIf cond d).c = s.c := by cases cond <;> rfl

@[simp] theorem State.jumpIf_flags (s : State) (cond : Bool) (d : Byte) :
    (s.jumpIf cond d).flags = s.flags := by cases cond <;> rfl

@[simp] theorem State.jumpIf_x (s : State) (cond : Bool) (d : Byte) :
    (s.jumpIf cond d).x = s.x := by cases cond <;> rfl

@[simp] theorem State.jumpIf_sp (s : State) (cond : Bool) (d : Byte) :
    (s.jumpIf cond d).sp = s.sp := by cases cond <;> rfl

@[simp] theorem State.jumpIf_pc (s : State) (cond : Bool) (d : Byte) :
    (s.jumpIf cond d).pc = if cond then s.pc + sext16 d else s.pc := by cases cond <;> rfl

@[simp] theorem State.jumpIf_halted (s : State) (cond : Bool) (d : Byte) :
    (s.jumpIf cond d).halted = s.halted := by cases cond <;> rfl

@[simp] theorem State.jumpIf_mem (s : State) (cond : Bool) (d : Byte) :
    (s.jumpIf cond d).mem = s.mem := by cases cond <;> rfl

@[simp] theorem State.jumpIf_params (s : State) (cond : Bool) (d : Byte) :
    (s.jumpIf cond d).params = s.params := by cases cond <;> rfl

@[simp] theorem State.jumpIf_irq (s : State) (cond : Bool) (d : Byte) :
    (s.jumpIf cond d).irq = s.irq := by cases cond <;> rfl

@[simp] theorem State.jumpIf_tick (s : State) (cond : Bool) (d : Byte) :
    (s.jumpIf cond d).tick = s.tick := by cases cond <;> rfl

@[simp] theorem State.jumpIf_portLog (s : State) (cond : Bool) (d : Byte) :
    (s.jumpIf cond d).portLog = s.portLog := by cases cond <;> rfl

@[simp] theorem State.jumpIf_cycles (s : State) (cond : Bool) (d : Byte) :
    (s.jumpIf cond d).cycles = s.cycles := by cases cond <;> rfl

/-! ### pastInstr -/

@[simp] theorem State.pastInstr_a (s : State) (i : Instr) : (s.pastInstr i).a = s.a := rfl

@[simp] theorem State.pastInstr_b (s : State) (i : Instr) : (s.pastInstr i).b = s.b := rfl

@[simp] theorem State.pastInstr_c (s : State) (i : Instr) : (s.pastInstr i).c = s.c := rfl

@[simp] theorem State.pastInstr_flags (s : State) (i : Instr) :
    (s.pastInstr i).flags = s.flags := rfl

@[simp] theorem State.pastInstr_x (s : State) (i : Instr) : (s.pastInstr i).x = s.x := rfl

@[simp] theorem State.pastInstr_sp (s : State) (i : Instr) : (s.pastInstr i).sp = s.sp := rfl

@[simp] theorem State.pastInstr_pc (s : State) (i : Instr) :
    (s.pastInstr i).pc = s.pc + BitVec.ofNat 16 i.length := rfl

@[simp] theorem State.pastInstr_halted (s : State) (i : Instr) :
    (s.pastInstr i).halted = s.halted := rfl

@[simp] theorem State.pastInstr_mem (s : State) (i : Instr) : (s.pastInstr i).mem = s.mem := rfl

@[simp] theorem State.pastInstr_params (s : State) (i : Instr) :
    (s.pastInstr i).params = s.params := rfl

@[simp] theorem State.pastInstr_irq (s : State) (i : Instr) : (s.pastInstr i).irq = s.irq := rfl

@[simp] theorem State.pastInstr_tick (s : State) (i : Instr) :
    (s.pastInstr i).tick = s.tick := rfl

@[simp] theorem State.pastInstr_portLog (s : State) (i : Instr) :
    (s.pastInstr i).portLog = s.portLog := rfl

@[simp] theorem State.pastInstr_cycles (s : State) (i : Instr) :
    (s.pastInstr i).cycles = s.cycles := rfl

/-! ### toNextBoundary -/

@[simp] theorem State.toNextBoundary_a (s : State) (n : Nat) : (s.toNextBoundary n).a = s.a := rfl

@[simp] theorem State.toNextBoundary_b (s : State) (n : Nat) : (s.toNextBoundary n).b = s.b := rfl

@[simp] theorem State.toNextBoundary_c (s : State) (n : Nat) : (s.toNextBoundary n).c = s.c := rfl

@[simp] theorem State.toNextBoundary_flags (s : State) (n : Nat) :
    (s.toNextBoundary n).flags = s.flags := rfl

@[simp] theorem State.toNextBoundary_x (s : State) (n : Nat) : (s.toNextBoundary n).x = s.x := rfl

@[simp] theorem State.toNextBoundary_sp (s : State) (n : Nat) :
    (s.toNextBoundary n).sp = s.sp := rfl

@[simp] theorem State.toNextBoundary_pc (s : State) (n : Nat) :
    (s.toNextBoundary n).pc = s.pc := rfl

@[simp] theorem State.toNextBoundary_halted (s : State) (n : Nat) :
    (s.toNextBoundary n).halted = s.halted := rfl

@[simp] theorem State.toNextBoundary_mem (s : State) (n : Nat) :
    (s.toNextBoundary n).mem = s.mem := rfl

@[simp] theorem State.toNextBoundary_params (s : State) (n : Nat) :
    (s.toNextBoundary n).params = s.params := rfl

@[simp] theorem State.toNextBoundary_irq (s : State) (n : Nat) :
    (s.toNextBoundary n).irq = Config.irqOracle (s.tick + 1) := rfl

@[simp] theorem State.toNextBoundary_tick (s : State) (n : Nat) :
    (s.toNextBoundary n).tick = s.tick + 1 := rfl

@[simp] theorem State.toNextBoundary_portLog (s : State) (n : Nat) :
    (s.toNextBoundary n).portLog = s.portLog := rfl

@[simp] theorem State.toNextBoundary_cycles (s : State) (n : Nat) :
    (s.toNextBoundary n).cycles = s.cycles + n := rfl

/-! ### afterReset -/

@[simp] theorem State.afterReset_a (s : State) (image : Memory) :
    (s.afterReset image).a = s.a := rfl

@[simp] theorem State.afterReset_b (s : State) (image : Memory) :
    (s.afterReset image).b = s.b := rfl

@[simp] theorem State.afterReset_c (s : State) (image : Memory) :
    (s.afterReset image).c = s.c := rfl

@[simp] theorem State.afterReset_flags (s : State) (image : Memory) :
    (s.afterReset image).flags = s.flags := rfl

@[simp] theorem State.afterReset_x (s : State) (image : Memory) :
    (s.afterReset image).x = s.x := rfl

@[simp] theorem State.afterReset_sp (s : State) (image : Memory) :
    (s.afterReset image).sp = s.sp := rfl

@[simp] theorem State.afterReset_pc (s : State) (image : Memory) :
    (s.afterReset image).pc = s.params.resetPc := rfl

@[simp] theorem State.afterReset_halted (s : State) (image : Memory) :
    (s.afterReset image).halted = false := rfl

@[simp] theorem State.afterReset_mem (s : State) (image : Memory) :
    (s.afterReset image).mem = image := rfl

@[simp] theorem State.afterReset_params (s : State) (image : Memory) :
    (s.afterReset image).params = s.params := rfl

@[simp] theorem State.afterReset_irq (s : State) (image : Memory) :
    (s.afterReset image).irq = s.irq := rfl

@[simp] theorem State.afterReset_tick (s : State) (image : Memory) :
    (s.afterReset image).tick = s.tick := rfl

@[simp] theorem State.afterReset_portLog (s : State) (image : Memory) :
    (s.afterReset image).portLog = s.portLog := rfl

@[simp] theorem State.afterReset_cycles (s : State) (image : Memory) :
    (s.afterReset image).cycles = s.cycles := rfl

end Sys2Proof.Machine
end

