-- ==== Sys2Proof/Laws/Ops.lean ====
section
/-! SUPPORT. One lemma per shared operation that says what it does, for proofs to cite in place of its
definition. -/

namespace Sys2Proof.Machine

/-! ## Memory -/

/-- A read depends on memory, the memory map and the position in the run alone. -/
theorem State.readByte_congr {s t : State} (hm : t.mem = s.mem) (hp : t.params = s.params)
    (ht : t.tick = s.tick) (a : Word) : t.readByte a = s.readByte a := by
  unfold State.readByte State.isAbsent
  rw [hm, hp, ht]

/-- Which addresses are RAM depends on the parameters alone. -/
theorem State.isRam_congr {s t : State} (hp : t.params = s.params) (a : Word) :
    t.isRam a = s.isRam a := by
  unfold State.isRam
  rw [hp]

/-- An address of RAM is not absent. -/
theorem State.not_absent_of_ram {s : State} {a : Word} (h : s.isRam a = true) : s.isAbsent a = false := by
  simp only [State.isRam, decide_eq_true_eq] at h
  simp [State.isAbsent, h]

/-- A read of a RAM address: the listed byte, or the free value of a cell nothing has written. -/
theorem State.readByte_ram {s : State} {a : Word} (h : s.isRam a = true) :
    s.readByte a = (Memory.read? s.mem a.toNat).getD (Config.unspecifiedByte a) := by
  simp [State.readByte, State.not_absent_of_ram h]

/-- On the default map every address is RAM. -/
theorem State.isRam_default {s : State} (h : s.params.memMap = []) (a : Word) : s.isRam a = true := by
  simp [State.isRam, regionKind, h]

/-- A store to RAM. -/
theorem State.writeByte_ram {s : State} {a : Word} (v : Byte) (h : s.isRam a = true) :
    s.writeByte a v = { s with mem := Memory.write s.mem a.toNat v } := by
  simp [State.writeByte, h]

/-- A store to an address that is not RAM. -/
theorem State.writeByte_ignored {s : State} {a : Word} (v : Byte) (h : s.isRam a = false) :
    s.writeByte a v = s := by
  simp [State.writeByte, h]

/-! ## Registers -/

/-- The halves of a word make the word. -/
theorem concat_hi_lo (v : Word) : concat (hi v) (lo v) = v := by
  apply BitVec.eq_of_toNat_eq
  simp only [concat, hi, lo, BitVec.toNat_ofNat]
  omega

/-- The high byte of a pair. -/
theorem hi_concat (h l : Byte) : hi (concat h l) = h := by
  apply BitVec.eq_of_toNat_eq
  simp only [concat, hi, BitVec.toNat_ofNat]
  omega

/-- The low byte of a pair. -/
theorem lo_concat (h l : Byte) : lo (concat h l) = l := by
  apply BitVec.eq_of_toNat_eq
  simp only [concat, lo, BitVec.toNat_ofNat]
  omega

/-- A 16-bit register reads what was written to it. -/
theorem State.reg16_setReg16_same (s : State) (r : Reg16) (v : Word) : (s.setReg16 r v).reg16 r = v := by
  cases r
  · exact concat_hi_lo v
  · rfl
  · rfl

/-- An 8-bit register reads what was written to it. -/
theorem State.reg8_setReg8_same (s : State) (r : Reg8) (v : Byte) : (s.setReg8 r v).reg8 r = v := by
  cases r <;> rfl

/-- Another 8-bit register keeps its content. -/
theorem State.reg8_setReg8_other (s : State) {r q : Reg8} (v : Byte) (h : q ≠ r) :
    (s.setReg8 r v).reg8 q = s.reg8 q := by
  cases r <;> cases q <;> first | rfl | exact absurd rfl h

/-! ## Stack -/

/-- All that a push does: SP and memory change. -/
theorem State.push_eq (s : State) (h l : Byte) :
    s.push h l =
      { s with sp := s.sp - 1 - 1, mem := ((s.writeByte (s.sp - 1) h).writeByte (s.sp - 1 - 1) l).mem } := rfl

/-- All that a drop of a pair does. -/
theorem State.dropPair_eq (s : State) : s.dropPair = { s with sp := s.sp + 2 } := rfl

/-- All that a transfer through the vector table does. -/
theorem State.takeVector_eq (s : State) (v : Byte) :
    s.takeVector v = { s.push16 s.pc with pc := (s.push16 s.pc).vectorEntry v } := rfl

/-- All that the entry of a hardware interrupt does. -/
theorem State.hwInterruptEntry_eq (s : State) (v : Byte) :
    s.hwInterruptEntry v =
      { s.takeVector v with
        halted := false
        flags := if s.params.hwintClearsFi then { s.flags with fi := false } else s.flags } := rfl

/-- All that a return does. -/
theorem State.returnPop_eq (s : State) :
    s.returnPop = { s with sp := s.sp + 2, pc := concat s.popHigh s.popLow } := rfl

/-- All that a conditional jump does: PC is the target or stays. -/
theorem State.jumpIf_eq (s : State) (cond : Bool) (rel : Byte) :
    s.jumpIf cond rel = { s with pc := if cond then s.pc + sext16 rel else s.pc } := by
  unfold State.jumpIf
  split <;> rfl

/-! ## Flags -/

/-- All that `add8` answers. -/
theorem add8_eq (a b : Byte) (cin : Bool) :
    add8 a b cin =
      withZsp (BitVec.ofNat 8 (a.toNat + b.toNat + cin.toNat))
        (decide (256 ≤ a.toNat + b.toNat + cin.toNat))
        (decide (128 ≤ a.toNat % 128 + b.toNat % 128 + cin.toNat) ^^
          decide (256 ≤ a.toNat + b.toNat + cin.toNat)) := rfl

/-- All that `shift8` answers. -/
theorem shift8_eq (old r : Byte) (out : Bool) :
    shift8 old r out =
      { r := r, c := out, z := decide (r = 0), o := old.msb ^^ r.msb, s := r.msb,
        p := decide (popcount r % 2 = 0) } := rfl

/-! ## The boundary -/

/-- When a request is accepted. -/
theorem State.acceptedRequest_eq_some {s : State} {v : Byte} :
    s.acceptedRequest = some v ↔ s.flags.fi = true ∧ s.irq = some v := by
  unfold State.acceptedRequest
  split <;> simp_all

/-- When none is accepted. -/
theorem State.acceptedRequest_eq_none {s : State} :
    s.acceptedRequest = none ↔ s.flags.fi = false ∨ s.irq = none := by
  unfold State.acceptedRequest
  split <;> simp_all

/-- All that a boundary can do when it answers a next state: an interrupt entry, nothing but the passage
to the next boundary, or one instruction. -/
theorem boundary_cases {run : Instr → State → Result} {s t : State} (h : boundary run s = .next t) :
    (∃ v, s.acceptedRequest = some v ∧ t = (s.hwInterruptEntry v).toNextBoundary hwInterruptCycles) ∨
    (s.acceptedRequest = none ∧ s.halted = true ∧ t = s.toNextBoundary 0) ∨
    (∃ i u, s.acceptedRequest = none ∧ s.halted = false ∧ s.fetch = some i ∧
      run i (s.pastInstr i) = .next u ∧ t = u.toNextBoundary (Instr.cycles s.flags i)) := by
  unfold boundary at h
  split at h
  · next v hv =>
    injection h with h
    exact .inl ⟨v, hv, h.symm⟩
  · next hn =>
    split at h
    · next hh =>
      injection h with h
      exact .inr (.inl ⟨hn, hh, h.symm⟩)
    · next hh =>
      split at h
      · next i hi =>
        unfold endInstr at h
        split at h
        · next u hu =>
          injection h with h
          exact .inr (.inr ⟨i, u, hn, by simpa using hh, hi, hu, h.symm⟩)
        · exact absurd h (by simp)
        · exact absurd h (by simp)
      · exact absurd h (by simp)

/-! ## Basic operations -/

/-- A register counts up. -/
@[simp] theorem count_up {w : Nat} (v : BitVec w) : count false v = v + 1 := rfl

/-- A register counts down. -/
@[simp] theorem count_down {w : Nat} (v : BitVec w) : count true v = v - 1 := rfl

/-- A byte that passes through the ALU arrives unchanged. -/
@[simp] theorem State.moveAlu_eq (s : State) (r : Reg8) (v : Byte) : s.moveAlu r v = s.setReg8 r v := rfl

/-- A read does not depend on PC and the flags, which a fetch changes. -/
@[simp] theorem State.readByte_fetched (s : State) (p : Word) (f : Flags) (a : Word) :
    ({ s with pc := p, flags := f } : State).readByte a = s.readByte a := rfl

/-- `SHL` is a rotation through a cleared carry (46_alu_microops.md R292). -/
theorem shl8_eq_rcl8 (a : Byte) : shl8 a = rcl8 a false := by revert a; decide +kernel

/-- `SHR` is a rotation through a cleared carry (R292). -/
theorem shr8_eq_rcr8 (a : Byte) : shr8 a = rcr8 a false := by revert a; decide +kernel

end Sys2Proof.Machine
end

