-- ==== Sys2Proof/Laws/PerInstr.lean ====
section
/-! SUPPORT. Laws about every instruction, one lemma per constructor. -/

namespace Sys2Proof.Laws.EncodeShape

/-- The encoding of an instruction is raw code that the checks of WellFormed.lean accept, and it has the
length of the instruction (30_encoding.md R113, R119). -/
def Statement (i : Instr) : Prop := codeWf (encode i) = true ∧ (encode i).length = i.length

/-- A first byte with operand bytes of the number it determines. -/
theorem codeWf_of (n : Nat) {b : Byte} {rest : List Byte} (hl : rest.length = n)
    (h : (opcodeDefined b && decide (n + 1 = opcodeLength b)) = true) : codeWf (b :: rest) = true := by
  subst hl; exact h

/-- The operand bytes of an `op8`, by its code (R102). -/
abbrev op8Extra (c : BitVec 3) : Nat := if c = 0 then 2 else if c = 4 ∨ c = 6 then 1 else 0

/-- The operand bytes of a `mem8`, by its code (R104). -/
abbrev mem8Extra (c : BitVec 2) : Nat := if c = 0 then 2 else if c = 2 then 1 else 0

/-- The operand bytes of an `op16`, by its code (R105). -/
abbrev op16Extra (c : BitVec 2) : Nat := if c = 2 then 2 else 0

/-- A first byte of format ALU8 or MOVR8 with the operand bytes of its `op8` (R91). -/
theorem codeWf_op8 {p : BitVec 5}
    (h : ∀ c : BitVec 3, c ≠ 7 →
      (opcodeDefined (p ++ c) && decide (op8Extra c + 1 = opcodeLength (p ++ c))) = true) (s : Op8) :
    codeWf ((p ++ s.code) :: s.operandBytes) = true := by
  have hl : s.operandBytes.length = op8Extra s.code := by
    rcases s with (_ | _ | _) | r | _ <;> first | rfl | (cases r <;> rfl)
  have hc : s.code ≠ 7 := by
    rcases s with (_ | _ | _) | r | _ <;> first | (cases r <;> decide) | simp [Op8.code]
  exact codeWf_of _ hl (h _ hc)

/-- The lengths of the operand bytes of an `op8` agree. -/
theorem op8_length (s : Op8) : s.operandBytes.length = s.extraBytes := by
  rcases s with (_ | _ | _) | _ | _ <;> rfl

/-- The lengths of the operand bytes of a `mem8` agree. -/
theorem mem8_length (m : Mem8) : m.operandBytes.length = m.extraBytes := by cases m <;> rfl

/-- The lengths of the operand bytes of an `op16` agree. -/
theorem op16_length (s : Op16) : s.operandBytes.length = s.extraBytes := by cases s <;> rfl

theorem nop : Statement .nop := ⟨rfl, rfl⟩

theorem popAF : Statement .popAF := ⟨rfl, rfl⟩

theorem popBC : Statement .popBC := ⟨rfl, rfl⟩

theorem popX : Statement .popX := ⟨rfl, rfl⟩

theorem pushAF : Statement .pushAF := ⟨rfl, rfl⟩

theorem pushBC : Statement .pushBC := ⟨rfl, rfl⟩

theorem pushX : Statement .pushX := ⟨rfl, rfl⟩

theorem ret : Statement .ret := ⟨rfl, rfl⟩

theorem stc : Statement .stc := ⟨rfl, rfl⟩

theorem sti : Statement .sti := ⟨rfl, rfl⟩

theorem call (v : Word) : Statement (.call v) :=
  ⟨codeWf_of 2 rfl (by decide), rfl⟩

theorem cli : Statement .cli := ⟨rfl, rfl⟩

theorem clc : Statement .clc := ⟨rfl, rfl⟩

theorem hlt : Statement .hlt := ⟨rfl, rfl⟩

theorem inAC : Statement .inAC := ⟨rfl, rfl⟩

theorem int (v : Byte) : Statement (.int v) :=
  ⟨codeWf_of 1 rfl (by decide), rfl⟩

theorem jc (v : Byte) : Statement (.jc v) :=
  ⟨codeWf_of 1 rfl (by decide), rfl⟩

theorem jmpAddr (v : Word) : Statement (.jmpAddr v) :=
  ⟨codeWf_of 2 rfl (by decide), rfl⟩

theorem jnc (v : Byte) : Statement (.jnc v) :=
  ⟨codeWf_of 1 rfl (by decide), rfl⟩

theorem jno (v : Byte) : Statement (.jno v) :=
  ⟨codeWf_of 1 rfl (by decide), rfl⟩

theorem jnp (v : Byte) : Statement (.jnp v) :=
  ⟨codeWf_of 1 rfl (by decide), rfl⟩

theorem jns (v : Byte) : Statement (.jns v) :=
  ⟨codeWf_of 1 rfl (by decide), rfl⟩

theorem jnz (v : Byte) : Statement (.jnz v) :=
  ⟨codeWf_of 1 rfl (by decide), rfl⟩

theorem jo (v : Byte) : Statement (.jo v) :=
  ⟨codeWf_of 1 rfl (by decide), rfl⟩

theorem jp (v : Byte) : Statement (.jp v) :=
  ⟨codeWf_of 1 rfl (by decide), rfl⟩

theorem js (v : Byte) : Statement (.js v) :=
  ⟨codeWf_of 1 rfl (by decide), rfl⟩

theorem jz (v : Byte) : Statement (.jz v) :=
  ⟨codeWf_of 1 rfl (by decide), rfl⟩

theorem jmpReg (r : Reg16) : Statement (.jmpReg r) := by cases r <;> exact ⟨rfl, rfl⟩

theorem outCA : Statement .outCA := ⟨rfl, rfl⟩

theorem decReg16 (r : Reg16) : Statement (.decReg16 r) := by cases r <;> exact ⟨rfl, rfl⟩

theorem incReg16 (r : Reg16) : Statement (.incReg16 r) := by cases r <;> exact ⟨rfl, rfl⟩

theorem sar : Statement .sar := ⟨rfl, rfl⟩

theorem movMem8 (m : Mem8) (r : Reg8) : Statement (.movMem8 m r) := by
  have h : ∀ c d : BitVec 2, c ≠ 3 → d ≠ 0 →
      (opcodeDefined (0b0100#4 ++ c ++ d) &&
        decide (mem8Extra c + 1 = opcodeLength (0b0100#4 ++ c ++ d))) = true := by decide
  have hl : m.operandBytes.length = mem8Extra m.code := by cases m <;> rfl
  refine ⟨codeWf_of _ hl (h _ _ ?_ ?_), ?_⟩
  · cases m <;> exact nofun
  · cases r <;> exact nofun
  · simp [encode, Instr.length, mem8_length, Nat.add_comm]

theorem movReg16 (r : Reg16) (s : Op16) : Statement (.movReg16 r s) := by
  have h : ∀ c d : BitVec 2, c ≠ 3 →
      (opcodeDefined (0b0101#4 ++ c ++ d) &&
        decide (op16Extra d + 1 = opcodeLength (0b0101#4 ++ c ++ d))) = true := by decide
  have hl : s.operandBytes.length = op16Extra s.code := by
    rcases s with q | _
    · cases q <;> rfl
    · rfl
  refine ⟨codeWf_of _ hl (h _ _ ?_), ?_⟩
  · cases r <;> exact nofun
  · simp [encode, Instr.length, op16_length, Nat.add_comm]

theorem movReg8 (r : Reg8) (s : Op8) : Statement (.movReg8 r s) := by
  refine ⟨codeWf_op8 (p := 0b011#3 ++ r.code) (by cases r <;> decide) s, ?_⟩
  simp [encode, Instr.length, op8_length, Nat.add_comm]

theorem cmp (s : Op8) : Statement (.cmp s) :=
  ⟨codeWf_op8 (p := 0b10000#5) (by decide) s, by
    simp [encode, Instr.length, op8_length, Nat.add_comm]⟩

theorem add (s : Op8) : Statement (.add s) :=
  ⟨codeWf_op8 (p := 0b10001#5) (by decide) s, by
    simp [encode, Instr.length, op8_length, Nat.add_comm]⟩

theorem adc (s : Op8) : Statement (.adc s) :=
  ⟨codeWf_op8 (p := 0b10010#5) (by decide) s, by
    simp [encode, Instr.length, op8_length, Nat.add_comm]⟩

theorem and (s : Op8) : Statement (.and s) :=
  ⟨codeWf_op8 (p := 0b10011#5) (by decide) s, by
    simp [encode, Instr.length, op8_length, Nat.add_comm]⟩

theorem ror : Statement .ror := ⟨rfl, rfl⟩

theorem decReg8 (r : Reg8) : Statement (.decReg8 r) := by cases r <;> exact ⟨rfl, rfl⟩

theorem rol : Statement .rol := ⟨rfl, rfl⟩

theorem incReg8 (r : Reg8) : Statement (.incReg8 r) := by cases r <;> exact ⟨rfl, rfl⟩

theorem neg : Statement .neg := ⟨rfl, rfl⟩

theorem not : Statement .not := ⟨rfl, rfl⟩

theorem or (s : Op8) : Statement (.or s) :=
  ⟨codeWf_op8 (p := 0b11000#5) (by decide) s, by
    simp [encode, Instr.length, op8_length, Nat.add_comm]⟩

theorem rcl : Statement .rcl := ⟨rfl, rfl⟩

theorem rcr : Statement .rcr := ⟨rfl, rfl⟩

theorem sbb (s : Op8) : Statement (.sbb s) :=
  ⟨codeWf_op8 (p := 0b11011#5) (by decide) s, by
    simp [encode, Instr.length, op8_length, Nat.add_comm]⟩

theorem shl : Statement .shl := ⟨rfl, rfl⟩

theorem shr : Statement .shr := ⟨rfl, rfl⟩

theorem sub (s : Op8) : Statement (.sub s) :=
  ⟨codeWf_op8 (p := 0b11110#5) (by decide) s, by
    simp [encode, Instr.length, op8_length, Nat.add_comm]⟩

theorem xor (s : Op8) : Statement (.xor s) :=
  ⟨codeWf_op8 (p := 0b11111#5) (by decide) s, by
    simp [encode, Instr.length, op8_length, Nat.add_comm]⟩

end Sys2Proof.Laws.EncodeShape
end

