-- ==== Sys2Proof/Laws/Runs.lean ====
section
/-! SUPPORT. Runs: the induction along a run, and what the passage to the next boundary does to its end. -/

namespace Sys2Proof.Machine

/-- What holds at the start of a run and is kept by every step holds of every state it reaches. -/
theorem Reaches.invariant {p : State → Prop}
    (keep : ∀ t u, p t → Sys2Proof.Machine.step t = .next u → p u) {s t : State} (h : Reaches s t) (hs : p s) : p t := by
  induction h with
  | refl => exact hs
  | step _ e ih => exact keep _ _ ih e

/-- A quiet environment stays quiet. -/
theorem State.quiet_toNextBoundary {s : State} (h : s.quiet) (n : Nat) : (s.toNextBoundary n).quiet :=
  ⟨h.2 _ (Nat.lt_succ_self _), fun k hk => h.2 k (Nat.lt_of_succ_lt hk)⟩

/-- The end of a run is kept by the passage to the next boundary. -/
theorem State.ended_toNextBoundary {s : State} (h : s.ended) (n : Nat) : (s.toNextBoundary n).ended :=
  ⟨h.1, h.2.imp id fun q => State.quiet_toNextBoundary q n⟩

/-- At the end of a run no request is accepted. -/
theorem State.acceptedRequest_of_ended {s : State} (h : s.ended) : s.acceptedRequest = none :=
  State.acceptedRequest_eq_none.2 (h.2.imp id And.left)

end Sys2Proof.Machine
end

