-- ==== Sys2Proof/Tests/Slice0.lean ====
section
/-! SUPPORT. Tests: the checks of WellFormed.lean, words written out from the encodings of 30_encoding.md,
single steps with the expected results of 95_test_vectors.md (its vector is named in the comment), and a
witness for the hypotheses of each statement. -/

namespace Sys2Proof.Machine.Tests

/-! ## Helpers -/

/-- A memory with bytes written from an address on, wrapping. -/
def bytesFrom : Word → List Byte → Memory → Memory
  | _, [], m => m
  | p, v :: rest, m => bytesFrom (p + 1) rest (Memory.write m p.toNat v)

/-- A state about to fetch `code` at `pc`, with the six flags of `f` and no request. -/
def at_ (pc : Word) (code : List Byte) (f : Byte) : State :=
  { State.unspecified with pc := pc, mem := bytesFrom pc code [], flags := Flags.ofByte f, irq := none }

/-- The same with bytes in another place. -/
def with_ (s : State) (p : Word) (data : List Byte) : State := { s with mem := bytesFrom p data s.mem }

/-- A step answers a next state of which `p` holds. -/
def goes (s : State) (p : State → Bool) : Bool :=
  match step s with
  | .next t => p t
  | _ => false

/-- A step ends in the model's fault for a first byte. -/
def faultsAt (s : State) (b : Byte) : Bool :=
  match step s with
  | .fault r => decide (r = .illegalOpcode b)
  | _ => false

/-- PC, the six flags and the cycles of a step, which every vector lists. -/
def lists (t : State) (pc : Word) (f : Byte) (cyc : Nat) : Bool :=
  decide (t.pc = pc) && decide (t.flags = Flags.ofByte f) && decide (t.cycles = cyc)

/-- A cell of RAM holds a byte. -/
def holds (t : State) (p : Word) (v : Byte) : Bool := decide (Memory.read? t.mem p.toNat = some v)

/-! ## The checks refuse what is ill formed -/

/-- R119: 0x04 selects no instruction. -/
theorem test_wf_refuses_undefined_opcode : opcodeDefined 0x04 = false ∧ codeWf [0x04] = false := by decide

/-- R113: `CALL` with one operand byte, `NOP` with one, and no byte at all. -/
theorem test_wf_refuses_wrong_length :
    codeWf [0x0B, 0x00] = false ∧ codeWf [0x00, 0x00] = false ∧ codeWf [] = false ∧
      codeWf [0x0B, 0x00, 0x03] = true := by decide

/-- R123: the reach ends at the address of the jump + 129 and - 126 (43_control_transfer.md R240). -/
theorem test_wf_refuses_far_target :
    jcondReaches 0x0100 0x0182 = false ∧ jcondReaches 0x0100 0x0181 = true ∧
      jcondReaches 0x0100 0x0081 = false ∧ jcondReaches 0x0100 0x0082 = true := by decide

/-- R60: a range past the end of memory, and an empty one. -/
theorem test_wf_refuses_region :
    Region.wf ⟨0xFFFF, 2, .rom⟩ = false ∧ Region.wf ⟨0x8000, 0, .absent⟩ = false ∧
      Region.wf ⟨0xFFFF, 1, .rom⟩ = true := by decide

/-- R60: cells out of order, a repeated cell, a cell outside the address space. -/
theorem test_wf_refuses_cells :
    cellsWf [(2, 0), (1, 0)] = false ∧ cellsWf [(1, 0), (1, 0)] = false ∧
      cellsWf [(65536, 0)] = false ∧ cellsWf [(1, 0), (65535, 0)] = true := by decide

/-- A list that ends before its instruction does, and an undefined byte, are rejected by name. -/
theorem test_decode_rejects :
    decode [0x12, 0x34] = .error .truncated ∧ decode [0xFF, 0x00] = .error (.illegalOpcode 0xFF) := by
  decide

/-! ## Words written out from the encodings (30_encoding.md R114 to R117) -/

theorem test_decode_implied_control :
    decodeTableWord 8 0x00 = some .nop ∧
    decodeTableWord 8 0x01 = some .popAF ∧
    decodeTableWord 8 0x02 = some .popBC ∧
    decodeTableWord 8 0x03 = some .popX ∧
    decodeTableWord 8 0x05 = some .pushAF ∧
    decodeTableWord 8 0x06 = some .pushBC ∧
    decodeTableWord 8 0x07 = some .pushX ∧
    decodeTableWord 8 0x08 = some .ret ∧
    decodeTableWord 8 0x09 = some .stc ∧
    decodeTableWord 8 0x0A = some .sti ∧
    decodeTableWord 8 0x0C = some .cli ∧
    decodeTableWord 8 0x0D = some .clc ∧
    decodeTableWord 8 0x0E = some .hlt ∧
    decodeTableWord 8 0x0F = some .inAC ∧
    decodeTableWord 8 0x20 = some .outCA := by decide

theorem test_decode_operand_control :
    decodeTableWord 24 0x12340B = some (.call 0x1234) ∧
    decodeTableWord 24 0xFF0012 = some (.jmpAddr 0xFF00) ∧
    decodeTableWord 16 0xFF10 = some (.int 0xFF) ∧
    decodeTableWord 16 0xFB11 = some (.jc 0xFB) ∧
    decodeTableWord 16 0x0213 = some (.jnc 0x02) ∧
    decodeTableWord 16 0xFC14 = some (.jno 0xFC) ∧
    decodeTableWord 16 0x0215 = some (.jnp 0x02) ∧
    decodeTableWord 16 0x8016 = some (.jns 0x80) ∧
    decodeTableWord 16 0xFB17 = some (.jnz 0xFB) ∧
    decodeTableWord 16 0xFC18 = some (.jo 0xFC) ∧
    decodeTableWord 16 0x0219 = some (.jp 0x02) ∧
    decodeTableWord 16 0x7F1A = some (.js 0x7F) ∧
    decodeTableWord 16 0x051B = some (.jz 0x05) := by decide

theorem test_decode_registers :
    decodeTableWord 8 0x1C = some (.jmpReg .bc) ∧
    decodeTableWord 8 0x1E = some (.jmpReg .sp) ∧
    decodeTableWord 8 0x30 = some (.decReg16 .bc) ∧
    decodeTableWord 8 0x31 = some (.decReg16 .x) ∧
    decodeTableWord 8 0x36 = some (.incReg16 .sp) ∧
    decodeTableWord 8 0xA1 = some (.decReg8 .a) ∧
    decodeTableWord 8 0xA3 = some (.decReg8 .c) ∧
    decodeTableWord 8 0xAA = some (.incReg8 .b) := by decide

theorem test_decode_accumulator :
    decodeTableWord 8 0x40 = some .sar ∧
    decodeTableWord 8 0xA0 = some .ror ∧
    decodeTableWord 8 0xA8 = some .rol ∧
    decodeTableWord 8 0xB0 = some .neg ∧
    decodeTableWord 8 0xB8 = some .not ∧
    decodeTableWord 8 0xC8 = some .rcl ∧
    decodeTableWord 8 0xD0 = some .rcr ∧
    decodeTableWord 8 0xE0 = some .shl ∧
    decodeTableWord 8 0xE8 = some .shr := by decide

theorem test_decode_moves :
    decodeTableWord 24 0x200041 = some (.movMem8 (.addr 0x2000) .a) ∧
    decodeTableWord 8 0x46 = some (.movMem8 .atBC .b) ∧
    decodeTableWord 16 0xFE4B = some (.movMem8 (.atX 0xFE) .c) ∧
    decodeTableWord 8 0x51 = some (.movReg16 .bc (.reg .x)) ∧
    decodeTableWord 8 0x53 = some (.movReg16 .bc (.reg .sp)) ∧
    decodeTableWord 24 0x123456 = some (.movReg16 .x (.dat16 0x1234)) ∧
    decodeTableWord 8 0x58 = some (.movReg16 .sp (.reg .bc)) ∧
    decodeTableWord 24 0x123470 = some (.movReg8 .b (.mem (.addr 0x1234))) ∧
    decodeTableWord 8 0x6A = some (.movReg8 .a (.reg .b)) ∧
    decodeTableWord 16 0x5A7C = some (.movReg8 .c (.dat8 0x5A)) := by decide

theorem test_decode_binary :
    decodeTableWord 24 0x300080 = some (.cmp (.mem (.addr 0x3000))) ∧
    decodeTableWord 8 0x89 = some (.add (.reg .a)) ∧
    decodeTableWord 8 0x92 = some (.adc (.reg .b)) ∧
    decodeTableWord 16 0x3C9C = some (.and (.dat8 0x3C)) ∧
    decodeTableWord 8 0xC3 = some (.or (.reg .c)) ∧
    decodeTableWord 8 0xDD = some (.sbb (.mem .atBC)) ∧
    decodeTableWord 16 0xFFF6 = some (.sub (.mem (.atX 0xFF))) ∧
    decodeTableWord 16 0x01FE = some (.xor (.mem (.atX 0x01))) := by decide

/-! ## Single steps (95_test_vectors.md section 2) -/

/-- Vector T-01. -/
theorem test_mov_load_addr :
    goes (with_ (at_ 0x0100 [0x68, 0x34, 0x12] 0b101010) 0x1234 [0xAB])
      (fun t => decide (t.a = 0xAB) && lists t 0x0103 0b101010 18) = true := by decide

/-- Vector T-09. -/
theorem test_mov_load_into_own_pointer :
    goes { with_ (at_ 0x0100 [0x7D] 0b101010) 0x2010 [0x33] with b := 0x20, c := 0x10 }
      (fun t => decide (t.c = 0x33) && lists t 0x0101 0b101010 8) = true := by decide

/-- Vector T-21. -/
theorem test_mov_store_at_bc :
    goes { at_ 0x0100 [0x46] 0b010101 with b := 0x40, c := 0x02 }
      (fun t => holds t 0x4002 0x40 && lists t 0x0101 0b010101 8) = true := by decide

/-- Vector T-24. -/
theorem test_mov_store_below_x :
    goes { at_ 0x0100 [0x49, 0xFE] 0b101010 with a := 0xEE, x := 0x0001 }
      (fun t => holds t 0xFFFF 0xEE && lists t 0x0102 0b101010 13) = true := by decide

/-- Vector T-27. -/
theorem test_mov_bc_dat16 :
    goes (at_ 0x0100 [0x52, 0xEF, 0xBE] 0b101010)
      (fun t => decide (t.b = 0xBE) && decide (t.c = 0xEF) &&
        lists t 0x0103 0b101010 15) = true := by decide

/-- Vector T-32. -/
theorem test_mov_x_sp :
    goes { at_ 0x0100 [0x57] 0b010101 with sp := 0x7FF0 }
      (fun t => decide (t.x = 0x7FF0) && lists t 0x0101 0b010101 9) = true := by decide

/-- Vector T-41. -/
theorem test_push_bc_wraps :
    goes { at_ 0x0100 [0x06] 0b101010 with b := 0x12, c := 0x34, sp := 0x0001 }
      (fun t => holds t 0x0000 0x12 && holds t 0xFFFF 0x34 && decide (t.sp = 0xFFFF) &&
        lists t 0x0101 0b101010 15) = true := by decide

/-- Vector T-38. -/
theorem test_push_x :
    goes { at_ 0x0100 [0x07] 0b101010 with x := 0xABCD, sp := 0x8000 }
      (fun t => holds t 0x7FFE 0xCD && holds t 0x7FFF 0xAB && decide (t.sp = 0x7FFE) &&
        lists t 0x0101 0b101010 15) = true := by decide

/-- Vector T-39. -/
theorem test_push_af_high_byte :
    goes { at_ 0x0100 [0x05] 0b100101 with a := 0x5A, sp := 0x8000 }
      (fun t => holds t 0x7FFF 0x5A && decide (t.sp = 0x7FFE) &&
        lists t 0x0101 0b100101 15) = true := by decide

/-- Vector T-39: the byte of F is one of 0x25, 0x65, 0xA5, 0xE5. -/
theorem test_push_af_flag_byte :
    ∀ u : BitVec 2, (Flags.ofByte 0b100101).toByte u ∈ [0x25, 0x65, 0xA5, 0xE5] := by decide

/-- Vector T-49. -/
theorem test_pop_bc_wraps :
    goes { with_ (at_ 0x0100 [0x02] 0b010101) 0xFFFE [0x34, 0x12] with sp := 0xFFFE }
      (fun t => decide (t.b = 0x12) && decide (t.c = 0x34) && decide (t.sp = 0x0000) &&
        lists t 0x0101 0b010101 15) = true := by decide

/-- Vector T-48. -/
theorem test_pop_x_wraps :
    goes { with_ (at_ 0x0100 [0x03] 0b010101) 0xFFFF [0xCD, 0xAB] with sp := 0xFFFF }
      (fun t => decide (t.x = 0xABCD) && decide (t.sp = 0x0001) &&
        lists t 0x0101 0b010101 15) = true := by decide

/-- Vector T-46. -/
theorem test_pop_af_drops_two_bits :
    goes { with_ (at_ 0x0100 [0x01] 0b111111) 0x7FFE [0xC0, 0x00] with a := 0x11, sp := 0x7FFE }
      (fun t => decide (t.a = 0x00) && decide (t.sp = 0x8000) &&
        lists t 0x0101 0b000000 15) = true := by decide

/-- Vector T-47. -/
theorem test_pop_af_loads_flags :
    goes { with_ (at_ 0x0100 [0x01] 0b111111) 0x7FFE [0x25, 0x81] with sp := 0x7FFE }
      (fun t => decide (t.a = 0x81) && lists t 0x0101 0b100101 15) = true := by decide

/-- Vector A-04. -/
theorem test_add_overflow :
    goes { at_ 0x0100 [0x8C, 0x80] 0b100000 with a := 0x80 }
      (fun t => decide (t.a = 0x00) && lists t 0x0102 0b110111 10) = true := by decide

/-- Vector A-12. -/
theorem test_add_x_rel :
    goes { with_ (at_ 0x0100 [0x8E, 0x03] 0b100000) 0x3003 [0x7F] with a := 0x7F, x := 0x3000 }
      (fun t => decide (t.a = 0xFE) && lists t 0x0102 0b101100 13) = true := by decide

/-- Vector A-13. -/
theorem test_adc_carry_in :
    goes { at_ 0x0100 [0x94, 0x00] 0b000001 with a := 0xFF }
      (fun t => decide (t.a = 0x00) && lists t 0x0102 0b010011 10) = true := by decide

/-- Vector A-15. -/
theorem test_adc_signed :
    goes { at_ 0x0100 [0x94, 0x7F] 0b000001 with a := 0x7F }
      (fun t => decide (t.a = 0xFF) && lists t 0x0102 0b011100 10) = true := by decide

/-- Vector A-25. -/
theorem test_sub_borrow :
    goes { with_ (at_ 0x0100 [0xF5] 0b000000) 0x3000 [0x20] with a := 0x10, b := 0x30, c := 0x00 }
      (fun t => decide (t.a = 0xF0) && lists t 0x0101 0b011001 8) = true := by decide

/-- Vector A-22. -/
theorem test_sub_signed :
    goes { at_ 0x0100 [0xF4, 0xFF] 0b100000 with a := 0x7F }
      (fun t => decide (t.a = 0x80) && lists t 0x0102 0b101101 10) = true := by decide

/-- Vector A-27. -/
theorem test_sbb_full_subtrahend :
    goes { at_ 0x0100 [0xDC, 0xFF] 0b100001 with a := 0x00 }
      (fun t => decide (t.a = 0x00) && lists t 0x0102 0b110011 10) = true := by decide

/-- Vector A-29. -/
theorem test_sbb_signed_subtrahend :
    goes { at_ 0x0100 [0xDC, 0x7F] 0b100001 with a := 0x80 }
      (fun t => decide (t.a = 0x00) && lists t 0x0102 0b110110 10) = true := by decide

/-- Vector A-37. -/
theorem test_cmp_signed :
    goes { at_ 0x0100 [0x84, 0x80] 0b000000 with a := 0x7F }
      (fun t => decide (t.a = 0x7F) && lists t 0x0102 0b011101 10) = true := by decide

/-- Vector A-39. -/
theorem test_cmp_x_rel :
    goes { with_ (at_ 0x0100 [0x86, 0x00] 0b000000) 0x3000 [0x42] with a := 0x41, x := 0x3000 }
      (fun t => decide (t.a = 0x41) && lists t 0x0102 0b011001 13) = true := by decide

/-- Vector A-44. -/
theorem test_and_addr :
    goes { with_ (at_ 0x0100 [0x98, 0x00, 0x30] 0b100000) 0x3000 [0x03] with a := 0xFF }
      (fun t => decide (t.a = 0x03) && lists t 0x0103 0b110000 18) = true := by decide

/-- Vector A-42. -/
theorem test_and_clears :
    goes { at_ 0x0100 [0x9A] 0b000101 with a := 0xF0, b := 0x8F }
      (fun t => decide (t.a = 0x80) && lists t 0x0101 0b001000 7) = true := by decide

/-- Vector A-47. -/
theorem test_or_at_bc :
    goes { with_ (at_ 0x0100 [0xC5] 0b000000) 0x3000 [0xF0] with a := 0x0F, b := 0x30, c := 0x00 }
      (fun t => decide (t.a = 0xFF) && lists t 0x0101 0b011000 8) = true := by decide

/-- Vector A-45. -/
theorem test_or_clears :
    goes { at_ 0x0100 [0xC4, 0x80] 0b000101 with a := 0x01 }
      (fun t => decide (t.a = 0x81) && lists t 0x0102 0b011000 10) = true := by decide

/-- Vector A-48. -/
theorem test_xor_itself :
    goes { at_ 0x0100 [0xF9] 0b100101 with a := 0xA7 }
      (fun t => decide (t.a = 0x00) && lists t 0x0101 0b110010 7) = true := by decide

/-- Vector A-51. -/
theorem test_xor_x_rel :
    goes { with_ (at_ 0x0100 [0xFE, 0x01] 0b100000) 0x3001 [0x01] with a := 0x81, x := 0x3000 }
      (fun t => decide (t.a = 0x80) && lists t 0x0102 0b101000 13) = true := by decide

/-- Vector U-01. -/
theorem test_inc_reg8_overflow :
    goes { at_ 0x0100 [0xA9] 0b000001 with a := 0x7F }
      (fun t => decide (t.a = 0x80) && lists t 0x0101 0b001101 7) = true := by decide

/-- Vector U-03. -/
theorem test_inc_reg8_keeps_carry :
    goes { at_ 0x0100 [0xAA] 0b100001 with b := 0xFF }
      (fun t => decide (t.b = 0x00) && lists t 0x0101 0b110011 7) = true := by decide

/-- Vector U-06. -/
theorem test_dec_reg8_overflow :
    goes { at_ 0x0100 [0xA1] 0b000001 with a := 0x80 }
      (fun t => decide (t.a = 0x7F) && lists t 0x0101 0b000101 7) = true := by decide

/-- Vector U-07. -/
theorem test_dec_reg8_keeps_carry :
    goes { at_ 0x0100 [0xA2] 0b100000 with b := 0x00 }
      (fun t => decide (t.b = 0xFF) && lists t 0x0101 0b111000 7) = true := by decide

/-- Vector U-12. -/
theorem test_inc_bc :
    goes { at_ 0x0100 [0x34] 0b101010 with b := 0xFF, c := 0xFF }
      (fun t => decide (t.b = 0x00) && decide (t.c = 0x00) &&
        lists t 0x0101 0b101010 7) = true := by decide

/-- Vector U-13. -/
theorem test_inc_x :
    goes { at_ 0x0100 [0x35] 0b010101 with x := 0xFFFF }
      (fun t => decide (t.x = 0x0000) && lists t 0x0101 0b010101 7) = true := by decide

/-- Vector U-17. -/
theorem test_dec_bc :
    goes { at_ 0x0100 [0x30] 0b101010 with b := 0x00, c := 0x00 }
      (fun t => decide (t.b = 0xFF) && decide (t.c = 0xFF) &&
        lists t 0x0101 0b101010 7) = true := by decide

/-- Vector U-19. -/
theorem test_dec_x :
    goes { at_ 0x0100 [0x31] 0b000000 with x := 0x0001 }
      (fun t => decide (t.x = 0x0000) && lists t 0x0101 0b000000 7) = true := by decide

/-- Vector U-21. -/
theorem test_neg_zero :
    goes { at_ 0x0100 [0xB0] 0b000101 with a := 0x00 }
      (fun t => lists t 0x0101 0b010010 7) = true := by decide

/-- Vector U-24. -/
theorem test_neg_min :
    goes { at_ 0x0100 [0xB0] 0b000101 with a := 0x80 }
      (fun t => lists t 0x0101 0b001101 7) = true := by decide

/-- Vector U-27. -/
theorem test_not_ones :
    goes { at_ 0x0100 [0xB8] 0b100101 with a := 0xFF }
      (fun t => decide (t.a = 0x00) && lists t 0x0101 0b110010 7) = true := by decide

/-- Vector U-29. -/
theorem test_not_high_bit :
    goes { at_ 0x0100 [0xB8] 0b000101 with a := 0x80 }
      (fun t => decide (t.a = 0x7F) && lists t 0x0101 0b000000 7) = true := by decide

/-- Vector 2.4 table, ROL of 0x81, carry any. -/
theorem test_rol_81 :
    goes { at_ 0x0100 [0xA8] 0b100001 with a := 0x81 }
      (fun t => decide (t.a = 0x03) && lists t 0x0101 0b110101 7) = true := by decide

/-- Vector 2.4 table, ROL of 0x40, carry any. -/
theorem test_rol_40 :
    goes { at_ 0x0100 [0xA8] 0b100001 with a := 0x40 }
      (fun t => decide (t.a = 0x80) && lists t 0x0101 0b101100 7) = true := by decide

/-- Vector 2.4 table, ROR of 0x01, carry any. -/
theorem test_ror_01 :
    goes { at_ 0x0100 [0xA0] 0b100001 with a := 0x01 }
      (fun t => decide (t.a = 0x80) && lists t 0x0101 0b101101 7) = true := by decide

/-- Vector 2.4 table, ROR of 0xC0, carry any. -/
theorem test_ror_c0 :
    goes { at_ 0x0100 [0xA0] 0b100001 with a := 0xC0 }
      (fun t => decide (t.a = 0x60) && lists t 0x0101 0b110100 7) = true := by decide

/-- Vector 2.4 table, RCL of 0x80, carry 0. -/
theorem test_rcl_80 :
    goes { at_ 0x0100 [0xC8] 0b100000 with a := 0x80 }
      (fun t => decide (t.a = 0x00) && lists t 0x0101 0b110111 7) = true := by decide

/-- Vector 2.4 table, RCL of 0x40, carry 1. -/
theorem test_rcl_40 :
    goes { at_ 0x0100 [0xC8] 0b100001 with a := 0x40 }
      (fun t => decide (t.a = 0x81) && lists t 0x0101 0b111100 7) = true := by decide

/-- Vector 2.4 table, RCR of 0x01, carry 0. -/
theorem test_rcr_01 :
    goes { at_ 0x0100 [0xD0] 0b100000 with a := 0x01 }
      (fun t => decide (t.a = 0x00) && lists t 0x0101 0b110011 7) = true := by decide

/-- Vector 2.4 table, RCR of 0x80, carry 1. -/
theorem test_rcr_80 :
    goes { at_ 0x0100 [0xD0] 0b100001 with a := 0x80 }
      (fun t => decide (t.a = 0xC0) && lists t 0x0101 0b111000 7) = true := by decide

/-- Vector 2.4 table, SHL of 0x80, carry any. -/
theorem test_shl_80 :
    goes { at_ 0x0100 [0xE0] 0b100001 with a := 0x80 }
      (fun t => decide (t.a = 0x00) && lists t 0x0101 0b110111 7) = true := by decide

/-- Vector 2.4 table, SHL of 0x7F, carry any. -/
theorem test_shl_7f :
    goes { at_ 0x0100 [0xE0] 0b100001 with a := 0x7F }
      (fun t => decide (t.a = 0xFE) && lists t 0x0101 0b101100 7) = true := by decide

/-- Vector 2.4 table, SHR of 0x01, carry any. -/
theorem test_shr_01 :
    goes { at_ 0x0100 [0xE8] 0b100001 with a := 0x01 }
      (fun t => decide (t.a = 0x00) && lists t 0x0101 0b110011 7) = true := by decide

/-- Vector 2.4 table, SHR of 0x80, carry any. -/
theorem test_shr_80 :
    goes { at_ 0x0100 [0xE8] 0b100001 with a := 0x80 }
      (fun t => decide (t.a = 0x40) && lists t 0x0101 0b100100 7) = true := by decide

/-- Vector 2.4 table, SAR of 0x80, carry any. -/
theorem test_sar_80 :
    goes { at_ 0x0100 [0x40] 0b100001 with a := 0x80 }
      (fun t => decide (t.a = 0xC0) && lists t 0x0101 0b111000 7) = true := by decide

/-- Vector 2.4 table, SAR of 0x7F, carry any. -/
theorem test_sar_7f :
    goes { at_ 0x0100 [0x40] 0b100001 with a := 0x7F }
      (fun t => decide (t.a = 0x3F) && lists t 0x0101 0b110001 7) = true := by decide

/-- Vector C-01. -/
theorem test_jc_taken :
    goes (at_ 0x0100 [0x11, 0x0E] 0b000001)
      (fun t => lists t 0x0110 0b000001 12) = true := by decide

/-- Vector C-02. -/
theorem test_jc_not_taken :
    goes (at_ 0x0100 [0x11, 0x0E] 0b111110)
      (fun t => lists t 0x0102 0b111110 7) = true := by decide

/-- Vector C-03. -/
theorem test_jnc_taken :
    goes (at_ 0x0100 [0x13, 0x0E] 0b111110)
      (fun t => lists t 0x0110 0b111110 12) = true := by decide

/-- Vector C-04. -/
theorem test_jnc_not_taken :
    goes (at_ 0x0100 [0x13, 0x0E] 0b000001)
      (fun t => lists t 0x0102 0b000001 7) = true := by decide

/-- Vector C-05. -/
theorem test_jo_taken :
    goes (at_ 0x0100 [0x18, 0x0E] 0b000100)
      (fun t => lists t 0x0110 0b000100 12) = true := by decide

/-- Vector C-06. -/
theorem test_jo_not_taken :
    goes (at_ 0x0100 [0x18, 0x0E] 0b111011)
      (fun t => lists t 0x0102 0b111011 7) = true := by decide

/-- Vector C-07. -/
theorem test_jno_taken :
    goes (at_ 0x0100 [0x14, 0x0E] 0b111011)
      (fun t => lists t 0x0110 0b111011 12) = true := by decide

/-- Vector C-08. -/
theorem test_jno_not_taken :
    goes (at_ 0x0100 [0x14, 0x0E] 0b000100)
      (fun t => lists t 0x0102 0b000100 7) = true := by decide

/-- Vector C-09. -/
theorem test_jp_taken :
    goes (at_ 0x0100 [0x19, 0x0E] 0b010000)
      (fun t => lists t 0x0110 0b010000 12) = true := by decide

/-- Vector C-10. -/
theorem test_jp_not_taken :
    goes (at_ 0x0100 [0x19, 0x0E] 0b101111)
      (fun t => lists t 0x0102 0b101111 7) = true := by decide

/-- Vector C-11. -/
theorem test_jnp_taken :
    goes (at_ 0x0100 [0x15, 0x0E] 0b101111)
      (fun t => lists t 0x0110 0b101111 12) = true := by decide

/-- Vector C-12. -/
theorem test_jnp_not_taken :
    goes (at_ 0x0100 [0x15, 0x0E] 0b010000)
      (fun t => lists t 0x0102 0b010000 7) = true := by decide

/-- Vector C-13. -/
theorem test_js_taken :
    goes (at_ 0x0100 [0x1A, 0x0E] 0b001000)
      (fun t => lists t 0x0110 0b001000 12) = true := by decide

/-- Vector C-14. -/
theorem test_js_not_taken :
    goes (at_ 0x0100 [0x1A, 0x0E] 0b110111)
      (fun t => lists t 0x0102 0b110111 7) = true := by decide

/-- Vector C-15. -/
theorem test_jns_taken :
    goes (at_ 0x0100 [0x16, 0x0E] 0b110111)
      (fun t => lists t 0x0110 0b110111 12) = true := by decide

/-- Vector C-16. -/
theorem test_jns_not_taken :
    goes (at_ 0x0100 [0x16, 0x0E] 0b001000)
      (fun t => lists t 0x0102 0b001000 7) = true := by decide

/-- Vector C-17. -/
theorem test_jz_taken :
    goes (at_ 0x0100 [0x1B, 0x0E] 0b000010)
      (fun t => lists t 0x0110 0b000010 12) = true := by decide

/-- Vector C-18. -/
theorem test_jz_not_taken :
    goes (at_ 0x0100 [0x1B, 0x0E] 0b111101)
      (fun t => lists t 0x0102 0b111101 7) = true := by decide

/-- Vector C-19. -/
theorem test_jnz_taken :
    goes (at_ 0x0100 [0x17, 0x0E] 0b111101)
      (fun t => lists t 0x0110 0b111101 12) = true := by decide

/-- Vector C-20. -/
theorem test_jnz_not_taken :
    goes (at_ 0x0100 [0x17, 0x0E] 0b000010)
      (fun t => lists t 0x0102 0b000010 7) = true := by decide

/-- Vector C-32. -/
theorem test_jmp_addr_wraps :
    goes (at_ 0xFFFE [0x12, 0x00, 0x00] 0b010101)
      (fun t => lists t 0x0000 0b010101 15) = true := by decide

/-- Vector C-35. -/
theorem test_jmp_sp :
    goes { at_ 0x0100 [0x1E] 0b101010 with sp := 0x7FFE }
      (fun t => lists t 0x7FFE 0b101010 5) = true := by decide

/-- Vector C-37. -/
theorem test_call_straddles_the_end :
    goes { at_ 0xFFFE [0x0B, 0x00, 0x03] 0b010101 with sp := 0x8000 }
      (fun t => decide (t.sp = 0x7FFE) && holds t 0x7FFE 0x01 && holds t 0x7FFF 0x00 &&
        lists t 0x0300 0b010101 27) = true := by decide

/-- Vector C-38. -/
theorem test_call_push_wraps :
    goes { at_ 0x0100 [0x0B, 0x00, 0x03] 0b101010 with sp := 0x0001 }
      (fun t => decide (t.sp = 0xFFFF) && holds t 0x0000 0x01 && holds t 0xFFFF 0x03 &&
        lists t 0x0300 0b101010 27) = true := by decide

/-- Vector C-40. -/
theorem test_ret_wraps :
    goes { with_ (with_ (at_ 0x0100 [0x08] 0b010101) 0x0000 [0x12]) 0xFFFF [0x34] with sp := 0xFFFF }
      (fun t => decide (t.sp = 0x0001) && lists t 0x1234 0b010101 13) = true := by decide

/-- Vector C-43. -/
theorem test_int_reads_last_entry :
    goes { with_ (at_ 0x0100 [0x10, 0xFF] 0b000000) 0x01FE [0xCD, 0xAB] with sp := 0x8000 }
      (fun t => decide (t.sp = 0x7FFE) && holds t 0x7FFE 0x02 && holds t 0x7FFF 0x01 &&
        lists t 0xABCD 0b000000 30) = true := by decide

/-- Vector C-44. -/
theorem test_int_entry_on_code :
    goes { at_ 0x0100 [0x10, 0x80] 0b000000 with sp := 0x8000 }
      (fun t => decide (t.sp = 0x7FFE) && holds t 0x7FFE 0x02 && holds t 0x7FFF 0x01 &&
        lists t 0x8010 0b000000 30) = true := by decide

/-- Vector S-01. -/
theorem test_nop :
    goes (at_ 0x0100 [0x00] 0b101010)
      (fun t => lists t 0x0101 0b101010 5) = true := by decide

/-- Vector S-02. -/
theorem test_clc :
    goes (at_ 0x0100 [0x0D] 0b111111)
      (fun t => lists t 0x0101 0b111110 5) = true := by decide

/-- Vector S-04. -/
theorem test_stc :
    goes (at_ 0x0100 [0x09] 0b000000)
      (fun t => lists t 0x0101 0b000001 5) = true := by decide

/-- Vector S-06. -/
theorem test_cli :
    goes (at_ 0x0100 [0x0C] 0b111111)
      (fun t => lists t 0x0101 0b011111 5) = true := by decide

/-- Vector S-07. -/
theorem test_sti :
    goes (at_ 0x0100 [0x0A] 0b000000)
      (fun t => lists t 0x0101 0b100000 5) = true := by decide

/-- Vector S-10. -/
theorem test_out :
    goes { at_ 0x0100 [0x20] 0b101010 with a := 0x5A, c := 0x10 }
      (fun t => decide (t.portLog = [.write 0x10 0x5A]) &&
        lists t 0x0101 0b101010 8) = true := by decide

/-- Vectors S-08 and S-09, whatever the port answers: A and the event hold the answer, F is kept. -/
theorem test_in :
    ∃ t, step { at_ 0x0100 [0x0F] 0b101010 with c := 0x10 } = .next t ∧
      t.portLog = [.read 0x10 t.a] ∧ t.flags = Flags.ofByte 0b101010 ∧ t.pc = 0x0101 ∧ t.cycles = 8 :=
  ⟨_, rfl, rfl, rfl, rfl, rfl⟩

/-- Vector S-12. -/
theorem test_hlt :
    goes (at_ 0x0100 [0x0E] 0b101010)
      (fun t => t.halted && lists t 0x0101 0b101010 3) = true := by decide

/-- Vector S-13. -/
theorem test_hlt_keeps_pc :
    goes (let s := at_ 0x0100 [0x0E] 0b101010
      { s with params := { s.params with hltAdvancesPc := false } })
      (fun t => t.halted && lists t 0x0100 0b101010 3) = true := by decide

/-- Vector H-01. -/
theorem test_interrupt_entry :
    goes { with_ (at_ 0x0234 [0x00] 0b100001) 0x000A [0x00, 0x05] with sp := 0x8000, irq := some 0x05 }
      (fun t => holds t 0x7FFE 0x34 && holds t 0x7FFF 0x02 && decide (t.sp = 0x7FFE) &&
        lists t 0x0500 0b100001 22) = true := by decide

/-- Vector H-02. -/
theorem test_interrupt_entry_clears_enable :
    goes (let s : State := { with_ (at_ 0x0234 [0x00] 0b100001) 0x000A [0x00, 0x05] with sp := 0x8000, irq := some 0x05 }
      { s with params := { s.params with hwintClearsFi := true } })
      (fun t => decide (t.sp = 0x7FFE) && lists t 0x0500 0b000001 22) = true := by decide

/-- Vector H-03. -/
theorem test_request_ignored :
    goes { with_ (at_ 0x0234 [0x00] 0b000001) 0x000A [0x00, 0x05] with sp := 0x8000, irq := some 0x05 }
      (fun t => lists t 0x0235 0b000001 5) = true := by decide

/-- Vector H-05. -/
theorem test_interrupt_ends_halt :
    goes { with_ (at_ 0x0235 [0x00] 0b100000) 0x000A [0x00, 0x05] with sp := 0x8000, halted := true, irq := some 0x05 }
      (fun t => !t.halted && holds t 0x7FFE 0x35 && holds t 0x7FFF 0x02 &&
        lists t 0x0500 0b100000 22) = true := by decide

/-- Vector H-06. -/
theorem test_halted_ignores_request :
    goes { with_ (at_ 0x0235 [0x00] 0b000000) 0x000A [0x00, 0x05] with sp := 0x8000, halted := true, irq := some 0x05 }
      (fun t => t.halted && lists t 0x0235 0b000000 0) = true := by decide

/-- Vector H-08. -/
theorem test_interrupt_first_entry :
    goes { with_ (at_ 0xFFFF [0x00] 0b100000) 0x0000 [0x34, 0x12] with sp := 0x8000, irq := some 0x00 }
      (fun t => holds t 0x7FFE 0xFF && holds t 0x7FFF 0xFF &&
        lists t 0x1234 0b100000 22) = true := by decide

/-- Vector H-10. -/
theorem test_interrupt_stack_over_table :
    goes { with_ (at_ 0x1234 [0x00] 0b100000) 0x01FE [0x00, 0x90] with sp := 0x0200, irq := some 0xFF }
      (fun t => holds t 0x01FE 0x34 && holds t 0x01FF 0x12 && decide (t.sp = 0x01FE) &&
        lists t 0x1234 0b100000 22) = true := by decide

/-- Vector H-11. -/
theorem test_illegal_opcode : faultsAt (at_ 0x0234 [0x04] 0b100000) 0x04 = true := by decide

/-- Vector H-12. -/
theorem test_interrupt_before_illegal_opcode :
    goes { with_ (at_ 0x0234 [0x04] 0b100000) 0x000A [0x00, 0x05] with sp := 0x8000, irq := some 0x05 }
      (fun t => lists t 0x0500 0b100000 22) = true := by decide

/-- Vector H-13. -/
theorem test_sti_after_ignored_request :
    goes { with_ (at_ 0x0234 [0x0A] 0b000000) 0x000A [0x00, 0x05] with sp := 0x8000, irq := some 0x05 }
      (fun t => lists t 0x0235 0b100000 5) = true := by decide

/-! ## Witnesses: the hypotheses of the statements can be met -/

/-- A state about to fetch `NOP`, memory canonical. -/
def demo : State := at_ 0x0100 [0x00] 0

/-- The same, with ROM at 0x8000. -/
def demoRom : State := { demo with params := { demo.params with memMap := [⟨0x8000, 1, .rom⟩] } }

theorem test_witness_EncodeOfDecode :
    decode [0x12, 0x34, 0x12, 0x00] = .ok (.jmpAddr 0x1234, [0x00]) := by rfl

theorem test_witness_UndefinedFirstBytesFault :
    (at_ 0xFFFF [0xFF] 0).fetches ∧ opcodeDefined ((at_ 0xFFFF [0xFF] 0).readByte 0xFFFF) = false :=
  ⟨⟨rfl, rfl⟩, by decide⟩

theorem test_witness_LengthFromFirstByte :
    decodeBytes 0x00 0 0 = some .nop ∧ decodeBytes 0x12 0xFF 0xFF = some (.jmpAddr 0xFFFF) := by decide

theorem test_witness_DisplacementReachesTarget :
    jcondRel8 0x0100 0x0082 = some 0x80 ∧ jcondRel8 0x0100 0x0181 = some 0x7F ∧
      jcondRel8 0x0100 0x0081 = none ∧ jcondRel8 0x0100 0x0182 = none ∧
      jcondRel8 0xFFFF 0x0000 = some 0xFF := by decide

theorem test_witness_StoreChangesOneByte :
    demo.isRam 0x0000 = true ∧ demo.isRam 0xFFFF = true ∧ (0x0000 : Word) ≠ 0xFFFF ∧
      demoRom.isRam 0x7FFF = true ∧ demoRom.isRam 0x8000 = false ∧ demoRom.isRam 0x8001 = true ∧
      demo.params.memMap = [] ∧ demoRom.params.memMap = [] ++ ⟨0x8000, 1, .rom⟩ :: [] := by decide

/-- SP = 1: the two bytes of the push stand at both ends of memory. -/
theorem test_witness_PopUndoesPush_ReturnUndoesTransfer :
    ({ demo with sp := 1 } : State).isRam (1 - 1) = true ∧
      ({ demo with sp := 1 } : State).isRam (1 - 2) = true := by decide

theorem test_witness_StepKeepsMemoryCanonical :
    Memory.wf (at_ 0x0100 [0x41, 0xFF, 0xFF] 0).mem = true ∧
      ∃ t, step (at_ 0x0100 [0x41, 0xFF, 0xFF] 0) = .next t :=
  ⟨by decide, _, rfl⟩

/-- Without hypotheses; a `CALL` whose push lands on its target, and a `MOV` on the next opcode. -/
theorem test_next_fetch_sees_store :
    (match exec (.call 0x00FE) { demo with sp := 0x0100, pc := 0x0300 } with
      | .next t => t.fetch
      | _ => none) = some .nop ∧
    (match exec (.movMem8 (.atX 0xFF) .a) { demo with x := 0x0101, a := 0x0E } with
      | .next t => t.fetch
      | _ => none) = some .hlt := by decide

theorem test_witness_StepRunsDecodedInstruction :
    demo.fetches ∧
      decodeBytes (demo.readByte 0x0100) (demo.readByte 0x0101) (demo.readByte 0x0102) = some .nop :=
  ⟨⟨rfl, rfl⟩, rfl⟩

/-- A `CALL` that straddles the end of memory. -/
theorem test_witness_EncodedInstructionRuns :
    (at_ 0xFFFE [0x0B, 0x00, 0x03] 0).fetches ∧
      ∀ k (h : k < (encode (.call 0x0300)).length),
        (at_ 0xFFFE [0x0B, 0x00, 0x03] 0).readByte (0xFFFE + BitVec.ofNat 16 k)
          = (encode (.call 0x0300))[k] :=
  ⟨⟨rfl, rfl⟩, by decide⟩

/-- The first and the last vector, running and halted. -/
theorem test_witness_InterruptEntry :
    (∃ s : State, s.flags.fi = true ∧ s.irq = some 0x00 ∧ s.halted = false) ∧
      ∃ s : State, s.flags.fi = true ∧ s.irq = some 0xFF ∧ s.halted = true :=
  ⟨⟨{ at_ 0x0100 [] 0b100000 with irq := some 0x00 }, rfl, rfl, rfl⟩,
    ⟨{ at_ 0x0100 [] 0b100000 with irq := some 0xFF, halted := true }, rfl, rfl, rfl⟩⟩

theorem test_witness_DisabledRequestIsIgnored :
    ∃ s : State, s.flags.fi = false ∧ s.irq = some 0x05 := ⟨{ demo with irq := some 0x05 }, rfl, rfl⟩

/-- With no request, and with one that F.I = 0 ignores. -/
theorem test_witness_HaltedProcessorKeepsItsState :
    (∃ s : State, s.halted = true ∧ s.acceptedRequest = none ∧ s.flags.fi = true) ∧
      ∃ s : State, s.halted = true ∧ s.acceptedRequest = none ∧ s.irq = some 0x05 :=
  ⟨⟨{ at_ 0x0100 [] 0b100000 with halted := true }, rfl, rfl, rfl⟩,
    ⟨{ demo with halted := true, irq := some 0x05 }, rfl, rfl, rfl⟩⟩

/-- The end of a run with F.I = 0, and a state it reaches. (The other end, F.I = 1 and no request ever, is a
premise on the oracle, of which nothing can be proved.) -/
theorem test_witness_HaltedProcessorKeepsItsState_ended :
    ({ demo with halted := true } : State).ended ∧
      ∃ t, Reaches { demo with halted := true } t ∧ t.tick = 1 :=
  ⟨⟨rfl, .inl rfl⟩, _, .step (.refl _) rfl, rfl⟩

theorem test_witness_HaltChangesOnlyByHltAndInterrupt :
    (∃ s t : State, step s = .next t ∧ s.halted = false ∧ t.halted = true) ∧
      ∃ s t : State, step s = .next t ∧ s.halted = true ∧ t.halted = false :=
  ⟨⟨at_ 0x0100 [0x0E] 0, _, rfl, rfl, rfl⟩,
    ⟨{ at_ 0x0100 [] 0b100000 with irq := some 0xFF, halted := true }, _, rfl, rfl, rfl⟩⟩

/-- A step that adds a port event, and one of no cycles. -/
theorem test_witness_StepKeepsTheModelsOwnFields :
    (∃ t, step (at_ 0x0100 [0x20] 0) = .next t) ∧ ∃ t, step { demo with halted := true } = .next t :=
  ⟨⟨_, rfl⟩, ⟨_, rfl⟩⟩

/-- A row with the marks X and N, one with 0 and one with 1. -/
theorem test_witness_FlagMatrix :
    flagMark .neg .i = .unchanged ∧ flagMark .not .c = .zero ∧ flagMark .stc .c = .one ∧
      flagMark .cli .i = .zero ∧ flagMark .sti .i = .one := by decide

/-- Beside a push: the addresses above and below its two bytes; `HLT` with PC. -/
theorem test_witness_OnlyListedStateChanges :
    Reg.a ∉ Instr.writes .pushX ∧ Reg.sp ∈ Instr.writes .pushX ∧
      demo.sp ∉ Instr.stores demo .pushX ∧ demo.sp - 3 ∉ Instr.stores demo .pushX ∧
      demo.sp - 1 ∈ Instr.stores demo .pushX ∧ demo.sp - 2 ∈ Instr.stores demo .pushX ∧
      Reg.pc ∉ Instr.writes .hlt ∧ demo.params.hltAdvancesPc = true := by decide

/-- Two states that differ in X, SP and a flag, for `ADD A, B`. -/
theorem test_witness_OnlyListedStateIsRead :
    let u : State := { demo with x := 5, sp := 7, flags := { demo.flags with fc := true } }
    (∀ r ∈ Instr.reads (.add (.reg .b)), demo.get r = u.get r) ∧
      (∀ f ∈ Instr.readsFlags (.add (.reg .b)), demo.flags.get f = u.flags.get f) ∧
      demo.mem = u.mem ∧ demo.params = u.params ∧ demo.tick = u.tick ∧ demo.x ≠ u.x := by decide

theorem test_witness_CountReg8 : Reg8.b ≠ Reg8.a := by decide

/-- The farthest targets of a jump at 0x0100, taken and not taken. -/
theorem test_witness_AssembledJumpGoesToItsTarget :
    (at_ 0x0100 [0x1B, 0x80] 0b000010).fetches ∧ jcondRel8 0x0100 0x0082 = some 0x80 ∧
      Instr.taken (at_ 0x0100 [0x1B, 0x80] 0b000010).flags (.jz 0x80) = true ∧
      (at_ 0x0100 [0x1B, 0x7F] 0).fetches ∧ jcondRel8 0x0100 0x0181 = some 0x7F ∧
      Instr.taken (at_ 0x0100 [0x1B, 0x7F] 0).flags (.jz 0x7F) = false ∧
      ∀ k (h : k < (encode (.jz 0x80)).length),
        (at_ 0x0100 [0x1B, 0x80] 0b000010).readByte (0x0100 + BitVec.ofNat 16 k)
          = (encode (.jz 0x80))[k] :=
  ⟨⟨rfl, rfl⟩, by decide, by decide, ⟨rfl, rfl⟩, by decide, by decide, by decide⟩

/-- The last clause: the pass function, whose C and O are free, and a difference with flags. -/
theorem test_witness_InstructionsUseTheirAluFunction :
    (∃ u, aluOut 0b0000 0x12 0x80 true = some u ∧ u.r = 0x80 ∧ u.z = false ∧ u.s = true ∧ u.p = false) ∧
      ∃ u, aluOut 0b1111 0xFF 0xFF false = some u ∧ u.z = true :=
  ⟨⟨_, rfl, rfl, rfl, rfl, rfl⟩, ⟨_, rfl, rfl⟩⟩

theorem test_witness_BasicOperationsSumToCycles :
    Instr.transfers demo.flags .nop = some [.fetchCode] ∧ Instr.transfers demo.flags .hlt = none := by
  decide

/-- `INT 0xFF` at the end of memory, whose bytes wrap. -/
theorem test_witness_BasicOperationsCarryOutInstructions :
    (Instr.transfers (at_ 0xFFFF [0x10, 0xFF] 0).flags (.int 0xFF)).isSome = true ∧
      ∀ k (h : k < (encode (.int 0xFF)).length),
        (at_ 0xFFFF [0x10, 0xFF] 0).readByte (0xFFFF + BitVec.ofNat 16 k) = (encode (.int 0xFF))[k] := by
  decide

end Sys2Proof.Machine.Tests
end

section
/-! The decoder's operand fields: which codes select a form at all, whatever the operand bytes
(30_encoding.md R102 to R106). -/

namespace Sys2Proof

/-- R103: code 00 is the only one that names no 8-bit register. -/
theorem decodeReg8_eq_none_iff (c : BitVec 2) : decodeReg8 c = none ↔ c = 0b00 := by
  revert c; decide

/-- R106: code 11 is the only one that names no 16-bit register. -/
theorem decodeReg16_eq_none_iff (c : BitVec 2) : decodeReg16 c = none ↔ c = 0b11 := by
  revert c; decide

/-- R104: code 11 is the only one that selects no memory mode. -/
theorem decodeMem8_eq_none_iff (c : BitVec 2) (b1 b2 : Byte) :
    decodeMem8 c b1 b2 = none ↔ c = 0b11 := by
  rw [← Option.isNone_iff_eq_none, ← Option.isSome_eq_false_iff, decodeMem8_isSome c b1 b2 0 0]
  revert c; decide

/-- R102: code 111 is the only one that selects no 8-bit source. -/
theorem decodeOp8_eq_none_iff (c : BitVec 3) (b1 b2 : Byte) :
    decodeOp8 c b1 b2 = none ↔ c = 0b111 := by
  rw [← Option.isNone_iff_eq_none, ← Option.isSome_eq_false_iff, decodeOp8_isSome c b1 b2 0 0]
  revert c; decide

/-- R105: every code selects a 16-bit source. -/
theorem decodeOp16_selects (c : BitVec 2) (b1 b2 : Byte) : (decodeOp16 c b1 b2).isSome = true := by
  rw [decodeOp16_isSome c b1 b2 0 0]
  revert c; decide

end Sys2Proof
end

section
/-! What an operand reads: the registers, the effective addresses and the values of the source forms. -/

namespace Sys2Proof.Machine

@[simp] theorem State.reg8_a (s : State) : s.reg8 .a = s.a := rfl

@[simp] theorem State.reg8_b (s : State) : s.reg8 .b = s.b := rfl

@[simp] theorem State.reg8_c (s : State) : s.reg8 .c = s.c := rfl

@[simp] theorem State.reg16_bc (s : State) : s.reg16 .bc = concat s.b s.c := rfl

@[simp] theorem State.reg16_x (s : State) : s.reg16 .x = s.x := rfl

@[simp] theorem State.reg16_sp (s : State) : s.reg16 .sp = s.sp := rfl

@[simp] theorem State.ea_addr (s : State) (a : Word) : s.ea (.addr a) = a := rfl

@[simp] theorem State.ea_atBC (s : State) : s.ea .atBC = concat s.b s.c := rfl

@[simp] theorem State.ea_atX (s : State) (d : Byte) : s.ea (.atX d) = s.x + d.signExtend 16 := rfl

@[simp] theorem State.readOp8_mem (s : State) (m : Mem8) : s.readOp8 (.mem m) = s.readByte (s.ea m) := rfl

@[simp] theorem State.readOp8_reg (s : State) (r : Reg8) : s.readOp8 (.reg r) = s.reg8 r := rfl

@[simp] theorem State.readOp8_dat8 (s : State) (d : Byte) : s.readOp8 (.dat8 d) = d := rfl

@[simp] theorem State.readOp16_reg (s : State) (r : Reg16) : s.readOp16 (.reg r) = s.reg16 r := rfl

@[simp] theorem State.readOp16_dat16 (s : State) (v : Word) : s.readOp16 (.dat16 v) = v := rfl

end Sys2Proof.Machine
end

section
/-! What an operand costs: the code, the operand bytes (column A) and the cycles (column B) of each form. -/

namespace Sys2Proof.Machine

/-- R104: the row of each memory mode. -/
theorem mem8_rows (a : Word) (d : Byte) :
    ((Mem8.addr a).code, (Mem8.addr a).extraBytes, Mem8.extraCycles (.addr a)) = (0b00#2, 2, 11) ∧
      (Mem8.atBC.code, Mem8.atBC.extraBytes, Mem8.extraCycles .atBC) = (0b01#2, 0, 1) ∧
      ((Mem8.atX d).code, (Mem8.atX d).extraBytes, Mem8.extraCycles (.atX d)) = (0b10#2, 1, 6) :=
  ⟨rfl, rfl, rfl⟩

/-- A memory mode costs as an `op8` what it costs as a `mem8`; only its code differs (R112). -/
theorem op8_mem_cost (m : Mem8) :
    (Op8.mem m).extraBytes = m.extraBytes ∧ Op8.extraCycles (.mem m) = Mem8.extraCycles m :=
  ⟨rfl, rfl⟩

/-- The row of a memory mode as an `op8` is its row as a `mem8` with the code of R102 in place of that
of R104. -/
theorem op8_row_of_mem8_row {m : Mem8} {c : BitVec 3} {c' : BitVec 2} {n k : Nat}
    (hc : (Op8.mem m).code = c) (h : (m.code, m.extraBytes, Mem8.extraCycles m) = (c', n, k)) :
    ((Op8.mem m).code, (Op8.mem m).extraBytes, Op8.extraCycles (.mem m)) = (c, n, k) := by
  obtain ⟨hbytes, hcycles⟩ := op8_mem_cost m
  have cost : (m.extraBytes, Mem8.extraCycles m) = (n, k) := congrArg Prod.snd h
  rw [hbytes, hcycles, hc, cost]

/-- R103: the codes of the 8-bit registers. -/
theorem reg8_codes : (Reg8.a.code, Reg8.b.code, Reg8.c.code) = (0b01#2, 0b10#2, 0b11#2) := rfl

/-- R102: the codes of the 8-bit registers as an `op8`, those of R103 with a 0 in front. -/
theorem op8_reg_code (r : Reg8) : (Op8.reg r).code = 0#1 ++ r.code := by
  cases r <;> rfl

/-- R106: the codes of the 16-bit registers as a destination. -/
theorem reg16_codes : (Reg16.bc.code, Reg16.x.code, Reg16.sp.code) = (0b00#2, 0b01#2, 0b10#2) := rfl

/-- R105: the codes of the 16-bit registers as a source. -/
theorem op16_reg_codes :
    ((Op16.reg .bc).code, (Op16.reg .x).code, (Op16.reg .sp).code) = (0b00#2, 0b01#2, 0b11#2) := rfl

/-- The two encodings in which SP stands once as a destination (10) and once as a source (11). -/
theorem encode_movReg16_sp :
    encode (.movReg16 .sp (.reg .x)) = [0x59] ∧ encode (.movReg16 .x (.reg .sp)) = [0x57] := by
  decide

/-- Settles O7: the values read from the rules of the operands, each memory row of `op8` from that of
`mem8`, and the codes left out from the decoders' refusals. -/
theorem operandForms : Obligations.OperandForms := by
  unfold Obligations.OperandForms
  obtain ⟨spDst, spSrc⟩ := encode_movReg16_sp
  refine ⟨fun s a d r => ?_, ?opRegCodes, reg8_codes, reg16_codes, op16_reg_codes,
    fun _ => ⟨rfl, rfl⟩, spDst, spSrc, fun b1 b2 => ?unused⟩
  case opRegCodes => rw [op8_reg_code, op8_reg_code, op8_reg_code]; decide
  case unused =>
    exact ⟨(decodeOp8_eq_none_iff _ b1 b2).2 rfl, (decodeMem8_eq_none_iff _ b1 b2).2 rfl,
      (decodeReg8_eq_none_iff _).2 rfl, (decodeReg16_eq_none_iff _).2 rfl,
      fun c => decodeOp16_selects c b1 b2⟩
  obtain ⟨addr, atBC, atX⟩ := mem8_rows a d
  simp only [State.ea_addr, State.ea_atBC, State.ea_atX, State.readOp8_mem, State.readOp8_reg,
    State.readOp8_dat8, State.reg8_a, State.reg8_b, State.reg8_c, State.readOp16_reg,
    State.readOp16_dat16, State.reg16_bc, State.reg16_x, State.reg16_sp, true_and]
  exact ⟨op8_row_of_mem8_row rfl addr, rfl, rfl,
    op8_row_of_mem8_row rfl atBC, op8_row_of_mem8_row rfl atX, addr, atBC, atX, rfl⟩

end Sys2Proof.Machine
end

section
/-! The moves into a register: the bytes and cycles of their forms, and the next state they answer. -/

namespace Sys2Proof.Machine

/-- R130: `MOV reg8, op8` answers the state with the operand, read before the write, in the destination. -/
theorem exec_movReg8 (r : Reg8) (src : Op8) (s : State) :
    exec (.movReg8 r src) s = .next (s.setReg8 r (s.readOp8 src)) := rfl

/-- R132: `MOV reg16, op16` answers the state with the operand, read before the write, in the destination. -/
theorem exec_movReg16 (r : Reg16) (src : Op16) (s : State) :
    exec (.movReg16 r src) s = .next (s.setReg16 r (s.readOp16 src)) := rfl

/-- R130: format MOVR8, with column B of the operand on top of 7 cycles. -/
theorem hasForm_movReg8 (r : Reg8) (src : Op8) :
    hasForm (.movReg8 r src) ((0b011#3 ++ r.code ++ src.code) :: src.operandBytes)
      (7 + Op8.extraCycles src) :=
  ⟨rfl, fun _ => rfl⟩

/-- R132: format MOVR16, with column B of the operand on top of 7 cycles. -/
theorem hasForm_movReg16 (r : Reg16) (src : Op16) :
    hasForm (.movReg16 r src) ((0b0101#4 ++ r.code ++ src.code) :: src.operandBytes)
      (7 + Op16.extraCycles src) :=
  ⟨rfl, fun _ => rfl⟩

/-- R21: a write of BC changes its two halves and no other part of the state. -/
theorem State.setReg16_bc (s : State) (v : Word) :
    s.setReg16 .bc v = { s with b := hi v, c := lo v } := rfl

/-- Settles O29: the meaning of the move at each of the three destinations. -/
theorem movReg8 : Obligations.MovReg8 := by
  unfold Obligations.MovReg8
  intro s src
  exact ⟨fun r => hasForm_movReg8 r src,
    exec_movReg8 .a src s, exec_movReg8 .b src s, exec_movReg8 .c src s⟩

/-- Settles O31: X and SP take the operand whole; BC takes it through its halves, which make the operand
again (`concat_hi_lo`). -/
theorem movReg16 : Obligations.MovReg16 := by
  unfold Obligations.MovReg16
  intro s src
  refine ⟨fun r => hasForm_movReg16 r src, ?bc, exec_movReg16 .x src s, exec_movReg16 .sp src s⟩
  case bc =>
    refine ⟨{ s with b := hi (s.readOp16 src), c := lo (s.readOp16 src) }, ?_, rfl, rfl, rfl,
      concat_hi_lo (s.readOp16 src)⟩
    rw [exec_movReg16, State.setReg16_bc]

end Sys2Proof.Machine
end

section
/-! The binary instructions on A (41_alu_binary.md): the meaning of each through the ALU function it uses,
and the form, the operand and the frame that all eight share (R168). -/

namespace Sys2Proof.Machine

/-- R33, R40: a result with C and O given sets five flags, and I stays. -/
theorem Flags.setCzosp_withZsp (f : Flags) (r : Byte) (c o : Bool) :
    f.setCzosp (withZsp r c o) = flagsOf f r c o := rfl

/-- All that the write of an ALU result does: A and the flags change. -/
theorem State.setAlu_eq (s : State) (u : AluOut) :
    s.setAlu u = { s with a := u.r, flags := s.flags.setCzosp u } := rfl

/-- The write of a result with C and O given. -/
theorem State.setAlu_withZsp (s : State) (r : Byte) (c o : Bool) :
    s.setAlu (withZsp r c o) = { s with a := r, flags := flagsOf s.flags r c o } := rfl

/-- R168: no ALU result reaches I. -/
@[simp] theorem Flags.setCzosp_fi (f : Flags) (u : AluOut) : (f.setCzosp u).fi = f.fi := rfl

/-! ### The meanings -/

/-- R160. -/
theorem exec_add (src : Op8) (s : State) :
    exec (.add src) s = .next (s.setAlu (add8 s.a (s.readOp8 src) false)) := rfl

/-- R161. -/
theorem exec_adc (src : Op8) (s : State) :
    exec (.adc src) s = .next (s.setAlu (add8 s.a (s.readOp8 src) s.flags.fc)) := rfl

/-- R162. -/
theorem exec_sub (src : Op8) (s : State) :
    exec (.sub src) s = .next (s.setAlu (sub8 s.a (s.readOp8 src) false)) := rfl

/-- R163. -/
theorem exec_sbb (src : Op8) (s : State) :
    exec (.sbb src) s = .next (s.setAlu (sub8 s.a (s.readOp8 src) s.flags.fc)) := rfl

/-- R164. -/
theorem exec_cmp (src : Op8) (s : State) :
    exec (.cmp src) s = .next { s with flags := s.flags.setCzosp (sub8 s.a (s.readOp8 src) false) } := rfl

/-- R165. -/
theorem exec_and (src : Op8) (s : State) :
    exec (.and src) s = .next (s.setAlu (logic8 (s.a &&& s.readOp8 src))) := rfl

/-- R166. -/
theorem exec_or (src : Op8) (s : State) :
    exec (.or src) s = .next (s.setAlu (logic8 (s.a ||| s.readOp8 src))) := rfl

/-- R167. -/
theorem exec_xor (src : Op8) (s : State) :
    exec (.xor src) s = .next (s.setAlu (logic8 (s.a ^^^ s.readOp8 src))) := rfl

/-! ### What the eight share -/

/-- R168: the eight binary instructions, each with the 5 bits above the operand code. -/
def binaryInstrs : List (BitVec 5 × (Op8 → Instr)) :=
  [(0b10000#5, Instr.cmp), (0b10001#5, .add), (0b10010#5, .adc), (0b10011#5, .and),
    (0b11000#5, .or), (0b11011#5, .sbb), (0b11110#5, .sub), (0b11111#5, .xor)]

/-- Format ALU8 with columns A and B of the operand (R91, R102, R382). -/
def IsAlu8Form (p : BitVec 5 × (Op8 → Instr)) : Prop :=
  ∀ src : Op8,
    hasForm (p.2 src) ((p.1 ++ src.code) :: src.operandBytes) (7 + Op8.extraCycles src) ∧
      (p.2 src).length = 1 + src.extraBytes

/-- The instruction writes to A and the flags what `f` makes of A, the operand and the old C. -/
def StoresAlu (mk : Op8 → Instr) (f : Byte → Byte → Bool → AluOut) : Prop :=
  ∀ (src : Op8) (s : State), exec (mk src) s = .next (s.setAlu (f s.a (s.readOp8 src) s.flags.fc))

/-- All eight have format ALU8. -/
theorem isAlu8Form_of_binary : ∀ p ∈ binaryInstrs, IsAlu8Form p := by
  simp only [binaryInstrs, List.forall_mem_cons]
  refine ⟨?_, ?_, ?_, ?_, ?_, ?_, ?_, ?_, nofun⟩ <;> exact fun _ => ⟨⟨rfl, fun _ => rfl⟩, rfl⟩

/-- R168: `CMP` alone has the opcode 10000; each of the other seven stores an ALU result. -/
theorem binary_cases : ∀ p ∈ binaryInstrs,
    p = (0b10000#5, Instr.cmp) ∨ p.1 ≠ 0b10000#5 ∧ ∃ f, StoresAlu p.2 f := by
  simp only [binaryInstrs, List.forall_mem_cons]
  exact ⟨.inl trivial,
    .inr ⟨by decide, fun a b _ => add8 a b false, exec_add⟩,
    .inr ⟨by decide, add8, exec_adc⟩,
    .inr ⟨by decide, fun a b _ => logic8 (a &&& b), exec_and⟩,
    .inr ⟨by decide, fun a b _ => logic8 (a ||| b), exec_or⟩,
    .inr ⟨by decide, sub8, exec_sbb⟩,
    .inr ⟨by decide, fun a b _ => sub8 a b false, exec_sub⟩,
    .inr ⟨by decide, fun a b _ => logic8 (a ^^^ b), exec_xor⟩, nofun⟩

/-- R168: a binary instruction depends on its operand through the value read alone. -/
theorem exec_binary_congr {p : BitVec 5 × (Op8 → Instr)} (hp : p ∈ binaryInstrs) {s : State}
    {src src' : Op8} (same : s.readOp8 src = s.readOp8 src') : exec (p.2 src) s = exec (p.2 src') s := by
  obtain rfl | ⟨_, f, stores⟩ := binary_cases p hp
  · rw [exec_cmp, exec_cmp, same]
  · rw [stores src s, stores src' s, same]

/-- R168: what a binary instruction leaves unchanged, A included when it is `CMP`. -/
theorem exec_binary_frame {p : BitVec 5 × (Op8 → Instr)} (hp : p ∈ binaryInstrs) (src : Op8) (s : State) :
    ∃ t, exec (p.2 src) s = .next t ∧ t = { s with a := t.a, flags := t.flags } ∧
      t.flags.fi = s.flags.fi ∧ (p.1 = 0b10000#5 → t.a = s.a) := by
  obtain rfl | ⟨notCmp, f, stores⟩ := binary_cases p hp
  · exact ⟨_, exec_cmp src s, rfl, Flags.setCzosp_fi _ _, fun _ => rfl⟩
  · exact ⟨_, stores src s, State.setAlu_eq s _, Flags.setCzosp_fi _ _, fun cmp => absurd cmp notCmp⟩

/-- Settles O34: the shared form, the operand A read as the immediate byte `s.a` (so as the old A), and
the shared frame. -/
theorem binaryForms : Obligations.BinaryForms := by
  unfold Obligations.BinaryForms
  intro s src p hp
  obtain ⟨form, len⟩ := isAlu8Form_of_binary p hp src
  have readsOldA : s.readOp8 (.reg .a) = s.readOp8 (.dat8 s.a) := by
    rw [State.readOp8_reg, State.reg8_a, State.readOp8_dat8]
  exact ⟨form, len, exec_binary_congr hp readsOldA, exec_binary_frame hp src s⟩

end Sys2Proof.Machine
end

section
/-! The sums with their flags, O as signed overflow (10_state.md R29, R38), and the bitwise operations. -/

namespace Sys2Proof.Machine

/-- The signed value of a byte: bit 7 weighs -128, the 7 bits below it count as they are. -/
theorem toInt_eq_low_bits (b : Byte) :
    b.toNat < 128 ∧ b.toInt = (b.toNat % 128 : Nat) ∨
      128 ≤ b.toNat ∧ b.toInt = (b.toNat % 128 : Nat) - 128 := by
  have bound : b.toNat < 256 := b.isLt
  rw [BitVec.toInt_eq_toNat_cond]
  split <;> omega

/-- R29: the carry out of bit 6 differs from the carry out of bit 7 exactly when the signed sum leaves
-128..127. -/
theorem carries_differ_iff_overflows (a b : Byte) (cin : Bool) :
    (decide (128 ≤ a.toNat % 128 + b.toNat % 128 + cin.toNat) ^^
        decide (256 ≤ a.toNat + b.toNat + cin.toNat)) =
      overflows (a.toInt + b.toInt + cin.toNat) := by
  have carryIn : cin.toNat ≤ 1 := Bool.toNat_le cin
  have boundA : a.toNat < 256 := a.isLt
  have boundB : b.toNat < 256 := b.isLt
  rw [Bool.eq_iff_iff, Bool.xor_iff_ne, ne_eq, decide_eq_decide, overflows, decide_eq_true_iff]
  obtain ⟨signA, intA⟩ | ⟨signA, intA⟩ := toInt_eq_low_bits a <;>
    obtain ⟨signB, intB⟩ | ⟨signB, intB⟩ := toInt_eq_low_bits b <;>
    rw [intA, intB] <;> omega

/-- The sum of the unsigned values, narrowed to 8 bits, is the sum modulo 256. -/
theorem ofNat_sum (a b : Byte) (cin : Bool) :
    BitVec.ofNat 8 (a.toNat + b.toNat + cin.toNat) = a + b + (if cin then 1 else 0) := by
  cases cin <;> simp [BitVec.ofNat_add]

/-- R38 in the terms of the statements: the sum modulo 256, C as the unsigned and O as the signed
overflow. -/
theorem add8_eq_overflows (a b : Byte) (cin : Bool) :
    add8 a b cin =
      withZsp (a + b + (if cin then 1 else 0)) (decide (256 ≤ a.toNat + b.toNat + cin.toNat))
        (overflows (a.toInt + b.toInt + cin.toNat)) := by
  rw [add8_eq, ofNat_sum, carries_differ_iff_overflows]

/-- Settles O36: the meaning of `ADC` through the sum of `add8`. -/
theorem adcResult : Obligations.AdcResult := by
  unfold Obligations.AdcResult
  intro s src
  refine ⟨rfl, ?_⟩
  rw [exec_adc, add8_eq_overflows, State.setAlu_withZsp]

/-- Without a carry in, `add8` adds its two operands. -/
theorem add8_false (a b : Byte) :
    add8 a b false =
      withZsp (a + b) (decide (256 ≤ a.toNat + b.toNat)) (overflows (a.toInt + b.toInt)) := by
  simpa using add8_eq_overflows a b false

/-- Settles O35: the meaning of `ADD` through the sum of `add8` without a carry in. -/
theorem addResult : Obligations.AddResult := by
  unfold Obligations.AddResult
  intro s src
  refine ⟨rfl, ?_⟩
  rw [exec_add, add8_false, State.setAlu_withZsp]

/-- R40: the write of a bitwise result clears C and O. -/
theorem State.setAlu_logic8 (s : State) (r : Byte) :
    s.setAlu (logic8 r) = { s with a := r, flags := flagsOf s.flags r false false } :=
  s.setAlu_withZsp r false false

/-- Settles O40: the three results are the bitwise operations, read bit by bit. -/
theorem logicResults : Obligations.LogicResults := by
  unfold Obligations.LogicResults
  intro s src
  refine ⟨rfl, rfl, rfl, s.a &&& s.readOp8 src, s.a ||| s.readOp8 src, s.a ^^^ s.readOp8 src,
    ?and, ?or, ?xor, fun k _ => ⟨BitVec.getLsbD_and, BitVec.getLsbD_or, BitVec.getLsbD_xor⟩⟩
  case and => rw [exec_and, State.setAlu_logic8]
  case or => rw [exec_or, State.setAlu_logic8]
  case xor => rw [exec_xor, State.setAlu_logic8]

end Sys2Proof.Machine
end

section
/-! The one's complement (42_alu_unary.md R203): its value, the number of its ones, the meaning of `NOT`. -/

namespace Sys2Proof.Machine

/-- The exclusive-or with eight ones, as R203 writes it, is the one's complement. -/
theorem xor_0xFF (b : Byte) : b ^^^ 0xFF = ~~~b := BitVec.xor_allOnes

/-- Each of the 8 bits is 1 either in a byte or in its complement. -/
theorem popcount_add_popcount_not (b : Byte) : popcount b + popcount (~~~b) = 8 := by
  have flips : popcount (~~~b) = (List.range 8).countP fun k => ¬ b.getLsbD k :=
    List.countP_congr fun k hk => by simp [List.mem_range.mp hk]
  rw [flips, popcount, ← List.length_eq_countP_add_countP, List.length_range]

/-- R203: as 8 is even, the complement keeps the parity of the number of ones. -/
theorem popcount_not_mod_two (b : Byte) : popcount (~~~b) % 2 = popcount b % 2 := by
  have total := popcount_add_popcount_not b
  omega

/-- R203. -/
theorem exec_not (s : State) : exec .not s = .next (s.setAlu (logic8 (s.a ^^^ 0xFF))) := rfl

/-- Settles O44: the meaning of `NOT` is the write of a bitwise result, the complement. -/
theorem notResult : Obligations.NotResult := by
  unfold Obligations.NotResult
  intro s
  refine ⟨⟨rfl, fun _ => rfl⟩, ?parity, ?meaning⟩
  case parity => rw [xor_0xFF, popcount_not_mod_two]
  case meaning => rw [exec_not, xor_0xFF, State.setAlu_logic8]

end Sys2Proof.Machine
end

section
/-! The absolute jump (43_control_transfer.md R241): the bytes of its address and its meaning. -/

namespace Sys2Proof.Machine

/-- R8: the low byte of a word is its bits 7:0. -/
theorem lo_eq_extractLsb' (v : Word) : lo v = v.extractLsb' 0 8 := by
  apply BitVec.eq_of_toNat_eq
  simp [lo]

/-- R8: the high byte of a word is its bits 15:8. -/
theorem hi_eq_extractLsb' (v : Word) : hi v = v.extractLsb' 8 8 := by
  apply BitVec.eq_of_toNat_eq
  simp [hi, Nat.shiftRight_eq_div_pow]

/-- R63: a word operand stands in memory as its bits 7:0, then its bits 15:8. -/
theorem wordBytes_eq (v : Word) : wordBytes v = [v.extractLsb' 0 8, v.extractLsb' 8 8] := by
  rw [wordBytes, lo_eq_extractLsb', hi_eq_extractLsb']

/-- R241: format ADDR16 with code 0x12, in 15 cycles. -/
theorem hasForm_jmpAddr (p : Word) : hasForm (.jmpAddr p) (0x12 :: wordBytes p) 15 :=
  ⟨rfl, fun _ => rfl⟩

/-- R241: `JMP addr` loads PC and changes nothing else. -/
theorem exec_jmpAddr (p : Word) (s : State) : exec (.jmpAddr p) s = .next { s with pc := p } := rfl

/-- Settles O49: the form of the jump, its operand bytes read as the bits of the address, and its
meaning. -/
theorem jmpAddr : Obligations.JmpAddr := by
  unfold Obligations.JmpAddr
  intro s p
  rw [← wordBytes_eq]
  exact ⟨hasForm_jmpAddr p, exec_jmpAddr p s⟩

end Sys2Proof.Machine
end


section
/-! The instructions without a memory access but the fetch (44_system_io.md): `NOP`, the writes of one flag
and the two port instructions. -/

namespace Sys2Proof.Machine

/-! ### `NOP` and the flags C and I -/

/-- R270: format IMPL with code 0x00, in 5 cycles. -/
theorem hasForm_nop : hasForm .nop [0x00] 5 := ⟨rfl, fun _ => rfl⟩

/-- R272: format IMPL with code 0x0D, in 5 cycles. -/
theorem hasForm_clc : hasForm .clc [0x0D] 5 := ⟨rfl, fun _ => rfl⟩

/-- R273: format IMPL with code 0x09, in 5 cycles. -/
theorem hasForm_stc : hasForm .stc [0x09] 5 := ⟨rfl, fun _ => rfl⟩

/-- R274: format IMPL with code 0x0C, in 5 cycles. -/
theorem hasForm_cli : hasForm .cli [0x0C] 5 := ⟨rfl, fun _ => rfl⟩

/-- R275: format IMPL with code 0x0A, in 5 cycles. -/
theorem hasForm_sti : hasForm .sti [0x0A] 5 := ⟨rfl, fun _ => rfl⟩

/-- R270: past the fetch of its opcode, `NOP` does nothing. -/
theorem exec_nop (s : State) : exec .nop s = .next s := rfl

/-- R272. -/
theorem exec_clc (s : State) : exec .clc s = .next { s with flags := { s.flags with fc := false } } := rfl

/-- R273. -/
theorem exec_stc (s : State) : exec .stc s = .next { s with flags := { s.flags with fc := true } } := rfl

/-- R274. -/
theorem exec_cli (s : State) : exec .cli s = .next { s with flags := { s.flags with fi := false } } := rfl

/-- R275. -/
theorem exec_sti (s : State) : exec .sti s = .next { s with flags := { s.flags with fi := true } } := rfl

/-- Settles O54: the five forms, then the five meanings. -/
theorem nopAndFlagInstructions : Obligations.NopAndFlagInstructions := by
  unfold Obligations.NopAndFlagInstructions
  intro s
  exact ⟨hasForm_nop, hasForm_clc, hasForm_stc, hasForm_cli, hasForm_sti,
    exec_nop s, exec_clc s, exec_stc s, exec_cli s, exec_sti s⟩

/-! ### The ports -/

/-- R276: format IMPL with code 0x0F, in 8 cycles. -/
theorem hasForm_inAC : hasForm .inAC [0x0F] 8 := ⟨rfl, fun _ => rfl⟩

/-- R277: format IMPL with code 0x20, in 8 cycles. -/
theorem hasForm_outCA : hasForm .outCA [0x20] 8 := ⟨rfl, fun _ => rfl⟩

/-- R61: a port read answers what the environment gives at that position of the run and that port. -/
theorem State.portRead_fst (s : State) (p : Byte) : (s.portRead p).1 = Config.portOracle s.tick p := rfl

/-- R61: a port write changes the log of events and no other part of the state. -/
theorem State.portWrite_eq (s : State) (p v : Byte) :
    s.portWrite p v = { s with portLog := s.portLog ++ [.write p v] } := rfl

/-- R276: `IN A, C` reads the port in C and loads A with the answer. -/
theorem exec_inAC (s : State) :
    exec .inAC s = .next { (s.portRead s.c).2 with a := (s.portRead s.c).1 } := rfl

/-- R277: `OUT C, A` writes A to the port in C. -/
theorem exec_outCA (s : State) : exec .outCA s = .next (s.portWrite s.c s.a) := rfl

/-- Settles O56: `IN` through the answer and the frame of a port read, `OUT` through the port write. -/
theorem portInstructions : Obligations.PortInstructions := by
  unfold Obligations.PortInstructions
  intro s
  refine ⟨hasForm_inAC, hasForm_outCA, ?inAC, ?outCA⟩
  case inAC => simp [exec_inAC, State.portRead_fst]
  case outCA => rw [exec_outCA, State.portWrite_eq]

end Sys2Proof.Machine
end

section
/-! Decoder and encoder say the same: three bytes decode to an instruction exactly when they begin with its
encoding. First field by field, then row by row, then for the whole table (30_encoding.md R90 to R121). -/

namespace Sys2Proof

/-! ### Bit fields of a first byte -/

/-- A concatenation is the bit vector that has its parts as fields. -/
theorem append_eq_iff_fields {n m : Nat} (h : BitVec n) (l : BitVec m) (b : BitVec (n + m)) :
    h ++ l = b ↔ b.extractLsb' m n = h ∧ b.extractLsb' 0 m = l := by
  constructor
  · rintro rfl
    exact ⟨BitVec.extractLsb'_append_eq_left, BitVec.extractLsb'_append_eq_right⟩
  · rintro ⟨rfl, rfl⟩
    rw [BitVec.extractLsb'_append_extractLsb'_eq_extractLsb' (Nat.zero_add m).symm,
      BitVec.extractLsb'_eq_self]

/-- A mask of the upper `n` bits compares the upper field alone. -/
theorem and_upper_mask_eq_iff {n m : Nat} (h : BitVec n) (b : BitVec (n + m)) :
    b &&& (BitVec.allOnes n ++ 0#m) = h ++ 0#m ↔ b.extractLsb' m n = h := by
  obtain ⟨x, y, rfl⟩ : ∃ (x : BitVec n) (y : BitVec m), x ++ y = b :=
    ⟨_, _, (append_eq_iff_fields _ _ b).2 ⟨rfl, rfl⟩⟩
  rw [BitVec.and_append, BitVec.and_allOnes, BitVec.and_zero, BitVec.append_left_inj,
    BitVec.extractLsb'_append_eq_left]

/-- A row's mask and pattern together with the field below the mask make the whole first byte. -/
theorem masked_and_low_iff {n m : Nat} {mask p : BitVec (n + m)} (h : BitVec n) (l : BitVec m)
    (b : BitVec (n + m)) (hmask : BitVec.allOnes n ++ 0#m = mask) (hp : h ++ 0#m = p) :
    b &&& mask = p ∧ l = b.extractLsb' 0 m ↔ h ++ l = b := by
  subst hmask hp
  rw [and_upper_mask_eq_iff, append_eq_iff_fields, eq_comm (a := l)]

/-- The same with two fields below the mask. -/
theorem masked_and_two_low_iff {n m k : Nat} {mask p : BitVec (n + m + k)} (h : BitVec n) (c : BitVec m)
    (d : BitVec k) (b : BitVec (n + m + k)) (hmask : BitVec.allOnes n ++ 0#m ++ 0#k = mask)
    (hp : h ++ 0#m ++ 0#k = p) :
    b &&& mask = p ∧ c = b.extractLsb' k m ∧ d = b.extractLsb' 0 k ↔ h ++ c ++ d = b := by
  subst hmask hp
  obtain ⟨xy, z, rfl⟩ : ∃ (xy : BitVec (n + m)) (z : BitVec k), xy ++ z = b :=
    ⟨_, _, (append_eq_iff_fields _ _ b).2 ⟨rfl, rfl⟩⟩
  have middle : (xy ++ z).extractLsb' k m = xy.extractLsb' 0 m := by
    ext i hi
    simp [BitVec.getLsbD_append]
  rw [BitVec.and_append, BitVec.and_zero, BitVec.append_left_inj, middle, BitVec.extractLsb'_append_eq_right,
    ← and_assoc, masked_and_low_iff h c xy rfl rfl, append_eq_iff_fields (h ++ c),
    BitVec.extractLsb'_append_eq_left, BitVec.extractLsb'_append_eq_right, eq_comm (a := xy), eq_comm (a := z)]

/-! ### Operand fields -/

/-- R103. -/
theorem decodeReg8_eq_some_iff (c : BitVec 2) (r : Reg8) : decodeReg8 c = some r ↔ r.code = c := by
  revert c; cases r <;> decide

/-- R106. -/
theorem decodeReg16_eq_some_iff (c : BitVec 2) (r : Reg16) : decodeReg16 c = some r ↔ r.code = c := by
  revert c; cases r <;> decide

/-- R64: two operand bytes make a word exactly when they are its bytes, the low one first. -/
theorem concat_eq_iff_wordBytes (b1 b2 : Byte) (v : Word) :
    concat b2 b1 = v ↔ wordBytes v <+: [b1, b2] := by
  simp only [wordBytes, List.cons_prefix_cons, List.nil_prefix, and_true]
  constructor
  · rintro rfl
    exact ⟨Machine.lo_concat b2 b1, Machine.hi_concat b2 b1⟩
  · rintro ⟨rfl, rfl⟩
    exact Machine.concat_hi_lo v

/-- R104. -/
theorem decodeMem8_eq_some_iff (c : BitVec 2) (b1 b2 : Byte) (m : Mem8) :
    decodeMem8 c b1 b2 = some m ↔ m.code = c ∧ m.operandBytes <+: [b1, b2] := by
  constructor
  · intro h
    unfold decodeMem8 at h
    split at h <;> cases h
    case h_1 hc => exact ⟨(BitVec.eq_of_toNat_eq hc).symm, (concat_eq_iff_wordBytes _ _ _).1 rfl⟩
    case h_2 hc => exact ⟨(BitVec.eq_of_toNat_eq hc).symm, List.nil_prefix⟩
    case h_3 hc => exact ⟨(BitVec.eq_of_toNat_eq hc).symm, by simp [Mem8.operandBytes]⟩
  · rintro ⟨rfl, hb⟩
    cases m with
    | addr a => exact congrArg (fun v => some (Mem8.addr v)) ((concat_eq_iff_wordBytes b1 b2 a).2 hb)
    | atBC => rfl
    | atX d => exact congrArg (fun v => some (Mem8.atX v)) (List.cons_prefix_cons.1 hb).1.symm

/-- R102. -/
theorem decodeOp8_eq_some_iff (c : BitVec 3) (b1 b2 : Byte) (s : Op8) :
    decodeOp8 c b1 b2 = some s ↔ s.code = c ∧ s.operandBytes <+: [b1, b2] := by
  constructor
  · intro h
    unfold decodeOp8 at h
    split at h <;> cases h
    all_goals refine ⟨(BitVec.eq_of_toNat_eq ‹_›).symm, ?_⟩
    case h_1 => exact (concat_eq_iff_wordBytes b1 b2 _).1 rfl
    all_goals simp [Op8.operandBytes, Mem8.operandBytes]
  · rintro ⟨rfl, hb⟩
    rcases s with (a | _ | d) | r | d
    case mem.addr =>
      exact congrArg (fun v => some (Op8.mem (.addr v))) ((concat_eq_iff_wordBytes b1 b2 a).2 hb)
    case mem.atBC => rfl
    case mem.atX =>
      exact congrArg (fun v => some (Op8.mem (.atX v))) (List.cons_prefix_cons.1 hb).1.symm
    case reg => cases r <;> rfl
    case dat8 => exact congrArg (fun v => some (Op8.dat8 v)) (List.cons_prefix_cons.1 hb).1.symm

/-- R105. -/
theorem decodeOp16_eq_some_iff (c : BitVec 2) (b1 b2 : Byte) (s : Op16) :
    decodeOp16 c b1 b2 = some s ↔ s.code = c ∧ s.operandBytes <+: [b1, b2] := by
  constructor
  · intro h
    have codes : ∀ c : BitVec 2, c = 0 ∨ c = 1 ∨ c = 2 ∨ c = 3 := by decide
    obtain rfl | rfl | rfl | rfl := codes c <;> cases h
    case mp.inr.inr.inl.refl => exact ⟨rfl, (concat_eq_iff_wordBytes b1 b2 _).1 rfl⟩
    all_goals exact ⟨rfl, List.nil_prefix⟩
  · rintro ⟨rfl, hb⟩
    rcases s with r | d
    case reg => cases r <;> rfl
    case dat16 => exact congrArg (fun v => some (Op16.dat16 v)) ((concat_eq_iff_wordBytes b1 b2 d).2 hb)

/-! ### Rows -/

/-- The row reads exactly the instructions `mk a`, each where its encoding stands. -/
def Row.Decodes {α : Type} (r : Row) (mk : α → Instr) : Prop :=
  ∀ (b0 b1 b2 : Byte) (i : Instr),
    r.decode b0 b1 b2 = some i ↔ ∃ a, mk a = i ∧ encode (mk a) <+: [b0, b1, b2]

/-- What a row answers: its mask and pattern accept the first byte and its builder answers. -/
theorem Row.decode_eq_some_iff (r : Row) (b0 b1 b2 : Byte) (i : Instr) :
    r.decode b0 b1 b2 = some i ↔ b0 &&& r.mask = r.pattern ∧ r.build b0 b1 b2 = some i := by
  unfold Row.decode
  split <;> simp [*]

/-- The mask 0xFF compares the whole first byte. -/
theorem and_0xFF_eq_iff (b p : Byte) : b &&& 0xFF = p ↔ p = b := by
  rw [show (0xFF : Byte) = BitVec.allOnes 8 from rfl, BitVec.and_allOnes, eq_comm]

/-- Format IMPL. -/
theorem rowImpl_decodes {mn ops : String} {p : Byte} {i : Instr} (h : encode i = [p]) :
    (rowImpl mn ops p i).Decodes fun _ : Unit => i := by
  intro b0 b1 b2 j
  simp only [Row.decode_eq_some_iff, rowImpl, and_0xFF_eq_iff, h, List.cons_prefix_cons, List.nil_prefix,
    Option.some.injEq, and_true, exists_const]
  exact and_comm

/-- Formats REL8 and VEC8. -/
theorem rowByte_decodes {mn ops : String} {p : Byte} {mk : Byte → Instr} (h : ∀ d, encode (mk d) = [p, d]) :
    (rowByte mn ops p mk).Decodes mk := by
  intro b0 b1 b2 j
  simp only [Row.decode_eq_some_iff, rowByte, and_0xFF_eq_iff, h, List.cons_prefix_cons, List.nil_prefix,
    Option.some.injEq, and_true]
  constructor
  · rintro ⟨hp, hj⟩
    exact ⟨b1, hj, hp, rfl⟩
  · rintro ⟨d, hj, hp, rfl⟩
    exact ⟨hp, hj⟩

/-- Format ADDR16. -/
theorem rowAddr_decodes {mn ops : String} {p : Byte} {mk : Word → Instr}
    (h : ∀ a, encode (mk a) = p :: wordBytes a) : (rowAddr mn ops p mk).Decodes mk := by
  intro b0 b1 b2 j
  simp only [Row.decode_eq_some_iff, rowAddr, and_0xFF_eq_iff, h, List.cons_prefix_cons,
    ← concat_eq_iff_wordBytes, Option.some.injEq]
  constructor
  · rintro ⟨hp, hj⟩
    exact ⟨_, hj, hp, rfl⟩
  · rintro ⟨a, hj, hp, rfl⟩
    exact ⟨hp, hj⟩

/-- Format REG16. -/
theorem rowReg16_decodes {mn : String} {p : Byte} {mk : Reg16 → Instr} (q : BitVec 6) (hq : q ++ 0#2 = p)
    (h : ∀ r, encode (mk r) = [q ++ r.code]) : (rowReg16 mn p mk).Decodes mk := by
  intro b0 b1 b2 j
  simp only [Row.decode_eq_some_iff, rowReg16, Option.map_eq_some_iff, decodeReg16_eq_some_iff, h,
    List.cons_prefix_cons, List.nil_prefix, and_true]
  constructor
  · rintro ⟨hp, r, hc, hj⟩
    exact ⟨r, hj, (masked_and_low_iff q r.code b0 rfl hq).1 ⟨hp, hc⟩⟩
  · rintro ⟨r, hj, hb⟩
    obtain ⟨hp, hc⟩ := (masked_and_low_iff q r.code b0 rfl hq).2 hb
    exact ⟨hp, r, hc, hj⟩

/-- Format REG8. -/
theorem rowReg8_decodes {mn : String} {p : Byte} {mk : Reg8 → Instr} (q : BitVec 6) (hq : q ++ 0#2 = p)
    (h : ∀ r, encode (mk r) = [q ++ r.code]) : (rowReg8 mn p mk).Decodes mk := by
  intro b0 b1 b2 j
  simp only [Row.decode_eq_some_iff, rowReg8, Option.map_eq_some_iff, decodeReg8_eq_some_iff, h,
    List.cons_prefix_cons, List.nil_prefix, and_true]
  constructor
  · rintro ⟨hp, r, hc, hj⟩
    exact ⟨r, hj, (masked_and_low_iff q r.code b0 rfl hq).1 ⟨hp, hc⟩⟩
  · rintro ⟨r, hj, hb⟩
    obtain ⟨hp, hc⟩ := (masked_and_low_iff q r.code b0 rfl hq).2 hb
    exact ⟨hp, r, hc, hj⟩

/-- Format ALU8. -/
theorem rowAlu8_decodes {mn : String} {p : Byte} {mk : Op8 → Instr} (q : BitVec 5) (hq : q ++ 0#3 = p)
    (h : ∀ s, encode (mk s) = (q ++ s.code) :: s.operandBytes) : (rowAlu8 mn p mk).Decodes mk := by
  intro b0 b1 b2 j
  simp only [Row.decode_eq_some_iff, rowAlu8, Option.map_eq_some_iff, decodeOp8_eq_some_iff, h,
    List.cons_prefix_cons]
  constructor
  · rintro ⟨hp, s, ⟨hc, hb⟩, hj⟩
    exact ⟨s, hj, (masked_and_low_iff q s.code b0 rfl hq).1 ⟨hp, hc⟩, hb⟩
  · rintro ⟨s, hj, h0, hb⟩
    obtain ⟨hp, hc⟩ := (masked_and_low_iff q s.code b0 rfl hq).2 h0
    exact ⟨hp, s, ⟨hc, hb⟩, hj⟩

/-- Format MOVM8, with two operand fields. -/
theorem rowMovMem8_decodes :
    Row.Decodes ⟨"MOV", "mem8, reg8", 0xF0, 0x40, fun b b1 b2 =>
      (decodeMem8 (b.extractLsb' 2 2) b1 b2).bind fun m =>
        (decodeReg8 (b.extractLsb' 0 2)).map fun r => .movMem8 m r⟩
      fun o : Mem8 × Reg8 => .movMem8 o.1 o.2 := by
  intro b0 b1 b2 j
  simp only [Row.decode_eq_some_iff, Option.bind_eq_some_iff, Option.map_eq_some_iff,
    decodeMem8_eq_some_iff, decodeReg8_eq_some_iff, encode, List.cons_prefix_cons, Prod.exists]
  constructor
  · rintro ⟨hp, m, ⟨hm, hb⟩, r, hr, hj⟩
    exact ⟨m, r, hj, (masked_and_two_low_iff 0b0100#4 m.code r.code b0 rfl rfl).1 ⟨hp, hm, hr⟩, hb⟩
  · rintro ⟨m, r, hj, h0, hb⟩
    obtain ⟨hp, hm, hr⟩ := (masked_and_two_low_iff 0b0100#4 m.code r.code b0 rfl rfl).2 h0
    exact ⟨hp, m, ⟨hm, hb⟩, r, hr, hj⟩

/-- Format MOVR16, with two operand fields. -/
theorem rowMovReg16_decodes :
    Row.Decodes ⟨"MOV", "reg16, op16", 0xF0, 0x50, fun b b1 b2 =>
      (decodeReg16 (b.extractLsb' 2 2)).bind fun r =>
        (decodeOp16 (b.extractLsb' 0 2) b1 b2).map fun s => .movReg16 r s⟩
      fun o : Reg16 × Op16 => .movReg16 o.1 o.2 := by
  intro b0 b1 b2 j
  simp only [Row.decode_eq_some_iff, Option.bind_eq_some_iff, Option.map_eq_some_iff,
    decodeReg16_eq_some_iff, decodeOp16_eq_some_iff, encode, List.cons_prefix_cons, Prod.exists]
  constructor
  · rintro ⟨hp, r, hr, s, ⟨hs, hb⟩, hj⟩
    exact ⟨r, s, hj, (masked_and_two_low_iff 0b0101#4 r.code s.code b0 rfl rfl).1 ⟨hp, hr, hs⟩, hb⟩
  · rintro ⟨r, s, hj, h0, hb⟩
    obtain ⟨hp, hr, hs⟩ := (masked_and_two_low_iff 0b0101#4 r.code s.code b0 rfl rfl).2 h0
    exact ⟨hp, r, hr, s, ⟨hs, hb⟩, hj⟩

/-- Format MOVR8, with two operand fields. -/
theorem rowMovReg8_decodes :
    Row.Decodes ⟨"MOV", "reg8, op8", 0xE0, 0x60, fun b b1 b2 =>
      (decodeReg8 (b.extractLsb' 3 2)).bind fun r =>
        (decodeOp8 (b.extractLsb' 0 3) b1 b2).map fun s => .movReg8 r s⟩
      fun o : Reg8 × Op8 => .movReg8 o.1 o.2 := by
  intro b0 b1 b2 j
  simp only [Row.decode_eq_some_iff, Option.bind_eq_some_iff, Option.map_eq_some_iff,
    decodeReg8_eq_some_iff, decodeOp8_eq_some_iff, encode, List.cons_prefix_cons, Prod.exists]
  constructor
  · rintro ⟨hp, r, hr, s, ⟨hs, hb⟩, hj⟩
    exact ⟨r, s, hj, (masked_and_two_low_iff 0b011#3 r.code s.code b0 rfl rfl).1 ⟨hp, hr, hs⟩, hb⟩
  · rintro ⟨r, s, hj, h0, hb⟩
    obtain ⟨hp, hr, hs⟩ := (masked_and_two_low_iff 0b011#3 r.code s.code b0 rfl rfl).2 h0
    exact ⟨hp, r, hr, s, ⟨hs, hb⟩, hj⟩

/-! ### The table -/

/-- The list of R119 with its bounds compared as numbers, which the kernel does at little cost. -/
def isDefined (n : Nat) : Bool := undefinedOpcodes.all fun r => Nat.blt n r.1 || Nat.blt r.2 n

/-- It is the model's reading of the list. -/
theorem opcodeDefined_eq (b : Byte) : opcodeDefined b = isDefined b.toNat := by
  have below (m n : Nat) : Nat.blt m n = decide (m < n) := by
    rw [Bool.eq_iff_iff, decide_eq_true_iff, Nat.blt_eq]
  simp only [opcodeDefined, isDefined, below, List.not_any_eq_all_not, Bool.not_and, ← decide_not, Nat.not_le]

/-- Whether a row answers for a first byte, the mask and the pattern compared as numbers. -/
def Row.answers (r : Row) (b : Byte) : Bool :=
  Nat.beq (Nat.land b.toNat r.mask.toNat) r.pattern.toNat && (r.build b 0 0).isSome

/-- Two bytes compared as numbers. -/
theorem beq_toNat (a b : Byte) : Nat.beq a.toNat b.toNat = decide (a = b) := by
  rw [Bool.eq_iff_iff, Nat.beq_eq, decide_eq_true_iff, BitVec.toNat_inj]

/-- It is what the decoder of the row says. -/
theorem Row.decode_isSome (r : Row) (b : Byte) : (r.decode b 0 0).isSome = r.answers b := by
  have masked : Nat.beq (Nat.land b.toNat r.mask.toNat) r.pattern.toNat = decide (b &&& r.mask = r.pattern) :=
    beq_toNat (b &&& r.mask) r.pattern
  rw [Row.answers, masked, Row.decode]
  split <;> simp [*]

/-- The rows whose pattern agrees with the upper half `h` of a first byte. -/
def rowsAt (h : BitVec 4) : List Row :=
  opcodeTable.filter fun r =>
    Nat.beq (Nat.land (h ++ 0#4).toNat r.mask.toNat) (Nat.land r.pattern.toNat 0xF0)

/-- The rows that answer are among those that agree with the upper half of the first byte. -/
theorem filter_answers_eq (h l : BitVec 4) :
    (opcodeTable.filter fun r => r.answers (h ++ l)) = (rowsAt h).filter fun r => r.answers (h ++ l) := by
  have upper : h ++ 0#4 = (h ++ l : Byte) &&& 0xF0 := by
    rw [show (0xF0 : Byte) = BitVec.allOnes 4 ++ 0#4 from rfl, BitVec.and_append, BitVec.and_allOnes,
      BitVec.and_zero]
  rw [rowsAt, List.filter_filter]
  refine List.filter_congr fun r _ => ?_
  have agrees : Nat.beq (Nat.land (h ++ 0#4).toNat r.mask.toNat) (Nat.land r.pattern.toNat 0xF0) =
      decide ((h ++ 0#4) &&& r.mask = r.pattern &&& 0xF0) := beq_toNat ((h ++ 0#4) &&& r.mask) (r.pattern &&& 0xF0)
  cases answers : r.answers (h ++ l) with
  | false => rfl
  | true =>
    have masked : (h ++ l) &&& r.mask = r.pattern :=
      of_decide_eq_true ((beq_toNat ((h ++ l) &&& r.mask) r.pattern).symm.trans
        (Bool.and_eq_true_iff.1 answers).1)
    rw [Bool.true_and, agrees, ← masked, upper, BitVec.and_assoc, BitVec.and_assoc, BitVec.and_comm r.mask]
    exact (decide_eq_true rfl).symm

/-- R119, R121: one row answers for each defined first byte and none for the others. -/
theorem countP_answers (h l : BitVec 4) :
    (rowsAt h).countP (fun r => r.answers (h ++ l)) = (isDefined (h ++ l).toNat).toNat := by
  revert h l; decide +kernel

/-- Settles O3: whether a row takes a first byte does not depend on the operand bytes
(`opcodeTable_takes`), and the first bytes are counted. -/
theorem rowsAreDisjoint : Obligations.RowsAreDisjoint := by
  unfold Obligations.RowsAreDisjoint
  refine ⟨rfl, ?_, fun b0 b1 b2 => ?_⟩
  · have bytes : ∀ n ∈ List.range 256, opcodeDefined (BitVec.ofNat 8 n) = true ↔ isDefined n = true := by
      intro n hn
      rw [opcodeDefined_eq, BitVec.toNat_ofNat, Nat.mod_eq_of_lt (List.mem_range.1 hn)]
    rw [List.countP_congr bytes]
    decide +kernel
  · have operandFree : (opcodeTable.filter fun r => (r.decode b0 b1 b2).isSome) =
        opcodeTable.filter fun r => r.answers b0 :=
      List.filter_congr fun r hr => (opcodeTable_takes r hr b0 b1 b2 0 0).trans (r.decode_isSome b0)
    obtain ⟨h, l, rfl⟩ : ∃ (h l : BitVec 4), h ++ l = b0 :=
      ⟨_, _, (append_eq_iff_fields (n := 4) (m := 4) _ _ b0).2 ⟨rfl, rfl⟩⟩
    rw [operandFree, filter_answers_eq, ← List.countP_eq_length_filter, countP_answers, opcodeDefined_eq]

/-- At most one row answers for a first byte, so the decoder's answer is that of any row that answers. -/
theorem decodeBytes_eq_some_iff_row (b0 b1 b2 : Byte) (i : Instr) :
    decodeBytes b0 b1 b2 = some i ↔ ∃ r ∈ opcodeTable, r.decode b0 b1 b2 = some i := by
  refine ⟨List.exists_of_findSome?_eq_some, fun ⟨r, hr, hi⟩ => ?_⟩
  have atMostOne : (opcodeTable.filter fun r => (r.decode b0 b1 b2).isSome).length ≤ 1 := by
    rw [rowsAreDisjoint.2.2 b0 b1 b2]
    exact Bool.toNat_le _
  have answers : (decodeBytes b0 b1 b2).isSome = true :=
    List.findSome?_isSome_iff.2 ⟨r, hr, by rw [hi]; rfl⟩
  obtain ⟨j, hj⟩ := Option.isSome_iff_exists.1 answers
  obtain ⟨q, hq, hqj⟩ := List.exists_of_findSome?_eq_some hj
  have mem : ∀ p ∈ opcodeTable, (p.decode b0 b1 b2).isSome = true →
      p ∈ opcodeTable.filter fun r => (r.decode b0 b1 b2).isSome :=
    fun p hp h => List.mem_filter.2 ⟨hp, h⟩
  have same : q = r := by
    have hqmem := mem q hq (by rw [hqj]; rfl)
    have hrmem := mem r hr (by rw [hi]; rfl)
    generalize (opcodeTable.filter fun r => (r.decode b0 b1 b2).isSome) = l at atMostOne hqmem hrmem
    match l, atMostOne with
    | [p], _ => rw [List.mem_singleton.1 hqmem, List.mem_singleton.1 hrmem]
  rw [hj, ← hqj, same, hi]

/-- What a row answers stands in the three bytes. -/
theorem Row.Decodes.encodes {α : Type} {r : Row} {mk : α → Instr} (h : r.Decodes mk) {b0 b1 b2 : Byte}
    {i : Instr} (hi : r.decode b0 b1 b2 = some i) : encode i <+: [b0, b1, b2] := by
  obtain ⟨a, rfl, ha⟩ := (h b0 b1 b2 i).1 hi
  exact ha

/-- An instruction of a row of the table is decoded where its encoding stands. -/
theorem Row.Decodes.reads {α : Type} {r : Row} {mk : α → Instr} (h : r.Decodes mk) {n : Nat}
    (hn : opcodeTable[n]? = some r) (a : α) {b0 b1 b2 : Byte} (ha : encode (mk a) <+: [b0, b1, b2]) :
    decodeBytes b0 b1 b2 = some (mk a) :=
  (decodeBytes_eq_some_iff_row b0 b1 b2 _).2
    ⟨r, List.mem_of_getElem? hn, (h b0 b1 b2 _).2 ⟨a, rfl, ha⟩⟩

/-- R114 to R117, from bytes to instructions: every row answers only what stands in the bytes. -/
theorem encode_prefix_of_row (b0 b1 b2 : Byte) (i : Instr) :
    ∀ r ∈ opcodeTable, r.decode b0 b1 b2 = some i → encode i <+: [b0, b1, b2] := by
  simp only [opcodeTable, rowsControl, rowsTransfer, rowsAlu, List.cons_append, List.nil_append,
    List.forall_mem_cons]
  exact ⟨(rowImpl_decodes rfl).encodes, (rowImpl_decodes rfl).encodes, (rowImpl_decodes rfl).encodes,
    (rowImpl_decodes rfl).encodes, (rowImpl_decodes rfl).encodes, (rowImpl_decodes rfl).encodes,
    (rowImpl_decodes rfl).encodes, (rowImpl_decodes rfl).encodes, (rowImpl_decodes rfl).encodes,
    (rowImpl_decodes rfl).encodes, (rowAddr_decodes fun _ => rfl).encodes, (rowImpl_decodes rfl).encodes,
    (rowImpl_decodes rfl).encodes, (rowImpl_decodes rfl).encodes, (rowImpl_decodes rfl).encodes,
    (rowByte_decodes fun _ => rfl).encodes, (rowByte_decodes fun _ => rfl).encodes,
    (rowAddr_decodes fun _ => rfl).encodes, (rowByte_decodes fun _ => rfl).encodes,
    (rowByte_decodes fun _ => rfl).encodes, (rowByte_decodes fun _ => rfl).encodes,
    (rowByte_decodes fun _ => rfl).encodes, (rowByte_decodes fun _ => rfl).encodes,
    (rowByte_decodes fun _ => rfl).encodes, (rowByte_decodes fun _ => rfl).encodes,
    (rowByte_decodes fun _ => rfl).encodes, (rowByte_decodes fun _ => rfl).encodes,
    (rowReg16_decodes 0b000111 rfl fun _ => rfl).encodes, (rowImpl_decodes rfl).encodes,
    (rowReg16_decodes 0b001100 rfl fun _ => rfl).encodes,
    (rowReg16_decodes 0b001101 rfl fun _ => rfl).encodes, (rowImpl_decodes rfl).encodes,
    rowMovMem8_decodes.encodes, rowMovReg16_decodes.encodes, rowMovReg8_decodes.encodes,
    (rowAlu8_decodes 0b10000 rfl fun _ => rfl).encodes, (rowAlu8_decodes 0b10001 rfl fun _ => rfl).encodes,
    (rowAlu8_decodes 0b10010 rfl fun _ => rfl).encodes, (rowAlu8_decodes 0b10011 rfl fun _ => rfl).encodes,
    (rowImpl_decodes rfl).encodes, (rowReg8_decodes 0b101000 rfl fun _ => rfl).encodes,
    (rowImpl_decodes rfl).encodes, (rowReg8_decodes 0b101010 rfl fun _ => rfl).encodes,
    (rowImpl_decodes rfl).encodes, (rowImpl_decodes rfl).encodes,
    (rowAlu8_decodes 0b11000 rfl fun _ => rfl).encodes, (rowImpl_decodes rfl).encodes,
    (rowImpl_decodes rfl).encodes, (rowAlu8_decodes 0b11011 rfl fun _ => rfl).encodes,
    (rowImpl_decodes rfl).encodes, (rowImpl_decodes rfl).encodes,
    (rowAlu8_decodes 0b11110 rfl fun _ => rfl).encodes, (rowAlu8_decodes 0b11111 rfl fun _ => rfl).encodes,
    List.forall_mem_nil _⟩

/-- R114 to R117, from instructions to bytes: every instruction has its row in the table. -/
theorem decodeBytes_of_encode_prefix {b0 b1 b2 : Byte} (i : Instr) (h : encode i <+: [b0, b1, b2]) :
    decodeBytes b0 b1 b2 = some i := by
  revert h
  cases i with
  | nop => exact (rowImpl_decodes rfl).reads (n := 0) rfl ()
  | popAF => exact (rowImpl_decodes rfl).reads (n := 1) rfl ()
  | popBC => exact (rowImpl_decodes rfl).reads (n := 2) rfl ()
  | popX => exact (rowImpl_decodes rfl).reads (n := 3) rfl ()
  | pushAF => exact (rowImpl_decodes rfl).reads (n := 4) rfl ()
  | pushBC => exact (rowImpl_decodes rfl).reads (n := 5) rfl ()
  | pushX => exact (rowImpl_decodes rfl).reads (n := 6) rfl ()
  | ret => exact (rowImpl_decodes rfl).reads (n := 7) rfl ()
  | stc => exact (rowImpl_decodes rfl).reads (n := 8) rfl ()
  | sti => exact (rowImpl_decodes rfl).reads (n := 9) rfl ()
  | call a => exact (rowAddr_decodes fun _ => rfl).reads (n := 10) rfl a
  | cli => exact (rowImpl_decodes rfl).reads (n := 11) rfl ()
  | clc => exact (rowImpl_decodes rfl).reads (n := 12) rfl ()
  | hlt => exact (rowImpl_decodes rfl).reads (n := 13) rfl ()
  | inAC => exact (rowImpl_decodes rfl).reads (n := 14) rfl ()
  | int d => exact (rowByte_decodes fun _ => rfl).reads (n := 15) rfl d
  | jc d => exact (rowByte_decodes fun _ => rfl).reads (n := 16) rfl d
  | jmpAddr a => exact (rowAddr_decodes fun _ => rfl).reads (n := 17) rfl a
  | jnc d => exact (rowByte_decodes fun _ => rfl).reads (n := 18) rfl d
  | jno d => exact (rowByte_decodes fun _ => rfl).reads (n := 19) rfl d
  | jnp d => exact (rowByte_decodes fun _ => rfl).reads (n := 20) rfl d
  | jns d => exact (rowByte_decodes fun _ => rfl).reads (n := 21) rfl d
  | jnz d => exact (rowByte_decodes fun _ => rfl).reads (n := 22) rfl d
  | jo d => exact (rowByte_decodes fun _ => rfl).reads (n := 23) rfl d
  | jp d => exact (rowByte_decodes fun _ => rfl).reads (n := 24) rfl d
  | js d => exact (rowByte_decodes fun _ => rfl).reads (n := 25) rfl d
  | jz d => exact (rowByte_decodes fun _ => rfl).reads (n := 26) rfl d
  | jmpReg r => exact (rowReg16_decodes 0b000111 rfl fun _ => rfl).reads (n := 27) rfl r
  | outCA => exact (rowImpl_decodes rfl).reads (n := 28) rfl ()
  | decReg16 r => exact (rowReg16_decodes 0b001100 rfl fun _ => rfl).reads (n := 29) rfl r
  | incReg16 r => exact (rowReg16_decodes 0b001101 rfl fun _ => rfl).reads (n := 30) rfl r
  | sar => exact (rowImpl_decodes rfl).reads (n := 31) rfl ()
  | movMem8 m r => exact rowMovMem8_decodes.reads (n := 32) rfl (m, r)
  | movReg16 r s => exact rowMovReg16_decodes.reads (n := 33) rfl (r, s)
  | movReg8 r s => exact rowMovReg8_decodes.reads (n := 34) rfl (r, s)
  | cmp s => exact (rowAlu8_decodes 0b10000 rfl fun _ => rfl).reads (n := 35) rfl s
  | add s => exact (rowAlu8_decodes 0b10001 rfl fun _ => rfl).reads (n := 36) rfl s
  | adc s => exact (rowAlu8_decodes 0b10010 rfl fun _ => rfl).reads (n := 37) rfl s
  | and s => exact (rowAlu8_decodes 0b10011 rfl fun _ => rfl).reads (n := 38) rfl s
  | ror => exact (rowImpl_decodes rfl).reads (n := 39) rfl ()
  | decReg8 r => exact (rowReg8_decodes 0b101000 rfl fun _ => rfl).reads (n := 40) rfl r
  | rol => exact (rowImpl_decodes rfl).reads (n := 41) rfl ()
  | incReg8 r => exact (rowReg8_decodes 0b101010 rfl fun _ => rfl).reads (n := 42) rfl r
  | neg => exact (rowImpl_decodes rfl).reads (n := 43) rfl ()
  | not => exact (rowImpl_decodes rfl).reads (n := 44) rfl ()
  | or s => exact (rowAlu8_decodes 0b11000 rfl fun _ => rfl).reads (n := 45) rfl s
  | rcl => exact (rowImpl_decodes rfl).reads (n := 46) rfl ()
  | rcr => exact (rowImpl_decodes rfl).reads (n := 47) rfl ()
  | sbb s => exact (rowAlu8_decodes 0b11011 rfl fun _ => rfl).reads (n := 48) rfl s
  | shl => exact (rowImpl_decodes rfl).reads (n := 49) rfl ()
  | shr => exact (rowImpl_decodes rfl).reads (n := 50) rfl ()
  | sub s => exact (rowAlu8_decodes 0b11110 rfl fun _ => rfl).reads (n := 51) rfl s
  | xor s => exact (rowAlu8_decodes 0b11111 rfl fun _ => rfl).reads (n := 52) rfl s

/-- The round trip in both directions: three bytes decode to an instruction exactly when they begin with its
encoding. -/
theorem decodeBytes_eq_some_iff (b0 b1 b2 : Byte) (i : Instr) :
    decodeBytes b0 b1 b2 = some i ↔ encode i <+: [b0, b1, b2] := by
  refine ⟨fun h => ?_, decodeBytes_of_encode_prefix i⟩
  obtain ⟨r, hr, hi⟩ := (decodeBytes_eq_some_iff_row b0 b1 b2 i).1 h
  exact encode_prefix_of_row b0 b1 b2 i r hr hi

end Sys2Proof
end

section
/-! The length of an instruction, and the decoder on byte lists: the round trips of encoder and decoder
(30_encoding.md R90, R113). -/

namespace Sys2Proof

/-- R113, R119: every encoding is raw code of the instruction's length. -/
theorem encode_shape (i : Instr) : Laws.EncodeShape.Statement i := by
  cases i with
  | nop => exact Laws.EncodeShape.nop
  | popAF => exact Laws.EncodeShape.popAF
  | popBC => exact Laws.EncodeShape.popBC
  | popX => exact Laws.EncodeShape.popX
  | pushAF => exact Laws.EncodeShape.pushAF
  | pushBC => exact Laws.EncodeShape.pushBC
  | pushX => exact Laws.EncodeShape.pushX
  | ret => exact Laws.EncodeShape.ret
  | stc => exact Laws.EncodeShape.stc
  | sti => exact Laws.EncodeShape.sti
  | call a => exact Laws.EncodeShape.call a
  | cli => exact Laws.EncodeShape.cli
  | clc => exact Laws.EncodeShape.clc
  | hlt => exact Laws.EncodeShape.hlt
  | inAC => exact Laws.EncodeShape.inAC
  | int v => exact Laws.EncodeShape.int v
  | jc d => exact Laws.EncodeShape.jc d
  | jmpAddr a => exact Laws.EncodeShape.jmpAddr a
  | jnc d => exact Laws.EncodeShape.jnc d
  | jno d => exact Laws.EncodeShape.jno d
  | jnp d => exact Laws.EncodeShape.jnp d
  | jns d => exact Laws.EncodeShape.jns d
  | jnz d => exact Laws.EncodeShape.jnz d
  | jo d => exact Laws.EncodeShape.jo d
  | jp d => exact Laws.EncodeShape.jp d
  | js d => exact Laws.EncodeShape.js d
  | jz d => exact Laws.EncodeShape.jz d
  | jmpReg r => exact Laws.EncodeShape.jmpReg r
  | outCA => exact Laws.EncodeShape.outCA
  | decReg16 r => exact Laws.EncodeShape.decReg16 r
  | incReg16 r => exact Laws.EncodeShape.incReg16 r
  | sar => exact Laws.EncodeShape.sar
  | movMem8 m r => exact Laws.EncodeShape.movMem8 m r
  | movReg16 r s => exact Laws.EncodeShape.movReg16 r s
  | movReg8 r s => exact Laws.EncodeShape.movReg8 r s
  | cmp s => exact Laws.EncodeShape.cmp s
  | add s => exact Laws.EncodeShape.add s
  | adc s => exact Laws.EncodeShape.adc s
  | and s => exact Laws.EncodeShape.and s
  | ror => exact Laws.EncodeShape.ror
  | decReg8 r => exact Laws.EncodeShape.decReg8 r
  | rol => exact Laws.EncodeShape.rol
  | incReg8 r => exact Laws.EncodeShape.incReg8 r
  | neg => exact Laws.EncodeShape.neg
  | not => exact Laws.EncodeShape.not
  | or s => exact Laws.EncodeShape.or s
  | rcl => exact Laws.EncodeShape.rcl
  | rcr => exact Laws.EncodeShape.rcr
  | sbb s => exact Laws.EncodeShape.sbb s
  | shl => exact Laws.EncodeShape.shl
  | shr => exact Laws.EncodeShape.shr
  | sub s => exact Laws.EncodeShape.sub s
  | xor s => exact Laws.EncodeShape.xor s

/-- R113: the encoding is as long as the instruction. -/
theorem length_encode (i : Instr) : (encode i).length = i.length := (encode_shape i).2

/-- R113: the first byte of an encoding determines its length. -/
theorem length_eq_opcodeLength {i : Instr} {b0 : Byte} {bytes : List Byte} (h : encode i = b0 :: bytes) :
    i.length = opcodeLength b0 := by
  obtain ⟨wf, len⟩ := encode_shape i
  rw [h] at wf len
  simp only [codeWf, Bool.and_eq_true, decide_eq_true_eq] at wf
  exact len.symm.trans wf.2

/-- An encoding has a first byte. -/
theorem encode_ne_nil (i : Instr) : encode i ≠ [] := by
  intro h
  have wf := (encode_shape i).1
  rw [h] at wf
  exact absurd wf (by decide)

/-- R113: no first byte determines a length outside 1 to 3. -/
theorem opcodeLength_bounds (b : Byte) : 1 ≤ opcodeLength b ∧ opcodeLength b ≤ 3 := by
  have listed : ∀ r ∈ opcodeLengthFixed, 1 ≤ r.2 ∧ r.2 ≤ 3 := by decide
  unfold opcodeLength
  split
  case isTrue => split <;> omega
  case isFalse =>
    cases found : opcodeLengthFixed.find? fun r => r.1 == b.toNat with
    | none => exact ⟨Nat.le_refl 1, Nat.le_of_ble_eq_true rfl⟩
    | some r => exact listed r (List.mem_of_find?_eq_some found)

/-- R113: no instruction is longer than 3 bytes. -/
theorem length_le_three (i : Instr) : i.length ≤ 3 := by
  obtain ⟨b0, bytes, h⟩ := List.exists_cons_of_ne_nil (encode_ne_nil i)
  rw [length_eq_opcodeLength h]
  exact (opcodeLength_bounds b0).2

/-- Settles O5: the decoded encoding begins with the first byte, which determines its length. -/
theorem lengthFromFirstByte : Obligations.LengthFromFirstByte := by
  unfold Obligations.LengthFromFirstByte
  intro b0 b1 b2 i h
  obtain ⟨bytes, hbytes⟩ : ∃ bytes, encode i = b0 :: bytes := by
    obtain ⟨c0, bytes, hc⟩ := List.exists_cons_of_ne_nil (encode_ne_nil i)
    have prefixed := (decodeBytes_eq_some_iff b0 b1 b2 i).1 h
    rw [hc, List.cons_prefix_cons] at prefixed
    exact ⟨bytes, prefixed.1 ▸ hc⟩
  have len := length_eq_opcodeLength hbytes
  exact ⟨len, (length_encode i).trans len, opcodeLength_bounds b0⟩

/-! ### Byte lists -/

/-- Code of at most 3 bytes that fits in a list stands at its beginning exactly when it stands in the three
bytes the decoder looks at, which are 0 past the end. -/
theorem prefix_iff_prefix_three {code l : List Byte} {b0 : Byte} (three : code.length ≤ 3)
    (fits : code.length ≤ l.length + 1) :
    code <+: b0 :: l ↔ code <+: [b0, l.getD 0 0, l.getD 1 0] := by
  match l with
  | [] =>
    have shorter : [b0] <+: [b0, 0, 0] := ⟨[0, 0], rfl⟩
    exact ⟨fun h => h.trans shorter, fun h => List.prefix_of_prefix_length_le h shorter fits⟩
  | [b1] =>
    have shorter : [b0, b1] <+: [b0, b1, 0] := ⟨[0], rfl⟩
    exact ⟨fun h => h.trans shorter, fun h => List.prefix_of_prefix_length_le h shorter fits⟩
  | b1 :: b2 :: bytes =>
    have shorter : [b0, b1, b2] <+: b0 :: b1 :: b2 :: bytes := ⟨bytes, rfl⟩
    exact ⟨fun h => List.prefix_of_prefix_length_le h shorter three, fun h => h.trans shorter⟩

/-- What the decoder of byte lists answers: the instruction whose encoding the list begins with, and the
rest. -/
theorem decode_eq_ok_iff (code rest : List Byte) (i : Instr) :
    decode code = .ok (i, rest) ↔ encode i ++ rest = code := by
  match code with
  | [] => simp [decode, encode_ne_nil]
  | b0 :: l =>
    have fits_iff (j : Instr) (fits : j.length ≤ l.length + 1) :
        decodeBytes b0 (l.getD 0 0) (l.getD 1 0) = some j ↔ encode j <+: b0 :: l := by
      rw [← length_encode] at fits
      rw [decodeBytes_eq_some_iff,
        prefix_iff_prefix_three ((length_encode j).trans_le (length_le_three j)) fits]
    constructor
    · intro h
      cases hd : decodeBytes b0 (l.getD 0 0) (l.getD 1 0) with
      | none => simp only [decode, hd, reduceCtorEq] at h
      | some j =>
        by_cases fits : j.length ≤ l.length + 1
        · simp only [decode, hd, fits, if_true, Except.ok.injEq, Prod.mk.injEq] at h
          obtain ⟨rfl, rfl⟩ := h
          have atStart := List.prefix_iff_eq_append.1 ((fits_iff j fits).1 hd)
          rwa [length_encode] at atStart
        · simp only [decode, hd, fits, if_false, reduceCtorEq] at h
    · intro h
      have fits : i.length ≤ l.length + 1 := by
        rw [← length_encode, ← List.length_cons (a := b0), ← h, List.length_append]
        exact Nat.le_add_right _ _
      have hi := (fits_iff i fits).2 ⟨rest, h⟩
      simp only [decode, hi, fits, if_true]
      rw [← h, ← length_encode, List.drop_left]

/-- Settles O1: the list begins with the encoding. -/
theorem decodeOfEncode : Obligations.DecodeOfEncode := by
  unfold Obligations.DecodeOfEncode
  exact fun i rest => (decode_eq_ok_iff _ rest i).2 rfl

/-- Settles O2: the other direction of the same fact. -/
theorem encodeOfDecode : Obligations.EncodeOfDecode := by
  unfold Obligations.EncodeOfDecode
  exact fun code rest i => (decode_eq_ok_iff code rest i).1

/-- Settles O6: each word is evaluated. -/
theorem writtenWordsDecode : Obligations.WrittenWordsDecode := by
  unfold Obligations.WrittenWordsDecode
  exact ⟨rfl, rfl, rfl, rfl, rfl, rfl, rfl, rfl, rfl, rfl, rfl, rfl⟩

/-- R119: the decoder refuses exactly the first bytes that belong to no row. -/
theorem decodeBytes_eq_none_iff (b0 b1 b2 : Byte) :
    decodeBytes b0 b1 b2 = none ↔ opcodeDefined b0 = false := by
  have noRow : decodeBytes b0 b1 b2 = none ↔
      (opcodeTable.filter fun r => (r.decode b0 b1 b2).isSome).length = 0 := by
    simp only [decodeBytes, List.findSome?_eq_none_iff, List.length_eq_zero_iff, List.filter_eq_nil_iff,
      Bool.not_eq_true, Option.isSome_eq_false_iff, Option.isNone_iff_eq_none]
  rw [noRow, rowsAreDisjoint.2.2 b0 b1 b2]
  cases opcodeDefined b0 <;> decide

end Sys2Proof
end

section
/-! Memory and the stack (20_memory.md sections 4 and 5): what an address reads as after a store and after a
push, and which addresses are RAM. -/

namespace Sys2Proof.Machine

/-! ### The memory map -/

/-- When a range of the memory map covers an address. -/
theorem Region.covers_iff (r : Region) (a : Word) :
    Region.covers r a = true ↔ r.base ≤ a.toNat ∧ a.toNat < r.base + r.size := by
  simp [Region.covers]

/-- An address that no range covers is of no kind. -/
theorem regionKind_of_uncovered {map : List Region} {a : Word}
    (h : ∀ r ∈ map, ¬(r.base ≤ a.toNat ∧ a.toNat < r.base + r.size)) : regionKind map a = none := by
  rw [regionKind, Option.map_eq_none_iff, List.find?_eq_none]
  exact fun r hr => (Region.covers_iff r a).not.2 (h r hr)

/-- The first range that covers an address decides its kind (log 12). -/
theorem regionKind_of_first_covering {before after : List Region} {r : Region} {a : Word}
    (hb : ∀ e ∈ before, ¬(e.base ≤ a.toNat ∧ a.toNat < e.base + e.size))
    (hr : r.base ≤ a.toNat ∧ a.toNat < r.base + r.size) :
    regionKind (before ++ r :: after) a = some r.kind := by
  have skipped : before.find? (fun e => Region.covers e a) = none :=
    List.find?_eq_none.2 fun e he => (Region.covers_iff e a).not.2 (hb e he)
  have taken : Region.covers r a = true := (Region.covers_iff r a).2 hr
  simp [regionKind, List.find?_append, skipped, taken]

/-! ### Stores -/

/-- R72, R73: what every address reads as after a store. -/
theorem State.readByte_writeByte (s : State) (p : Word) (v : Byte) (q : Word) :
    (s.writeByte p v).readByte q = s.readAfterStore p v q := by
  unfold State.readAfterStore
  cases ram : s.isRam p with
  | false => rw [State.writeByte_ignored v ram, if_neg (by simp)]
  | true =>
    rw [State.writeByte_ram v ram]
    by_cases same : q = p
    · have ramAfter := (State.isRam_congr (s := s) (t := { s with mem := Memory.write s.mem p.toNat v })
        rfl p).trans ram
      rw [if_pos ⟨rfl, same⟩, same, State.readByte_ram ramAfter, Memory.read?_write_same, Option.getD_some]
    · have other : q.toNat ≠ p.toNat := fun e => same (BitVec.eq_of_toNat_eq e)
      rw [if_neg fun h => same h.2]
      unfold State.readByte
      rw [Memory.read?_write_other s.mem v other]
      rfl

/-- R72, R73: the whole effect of a store on reads, RAM or not. -/
theorem State.readAfterStore_eq (s : State) (p : Word) (v : Byte) (q : Word) :
    s.readAfterStore p v q = if s.isRam p = true ∧ q = p then v else s.readByte q := rfl

/-- Settles O10: a read after a store, a store outside RAM, and the kind of an address by the map. -/
theorem storeChangesOneByte : Obligations.StoreChangesOneByte := by
  unfold Obligations.StoreChangesOneByte
  intro s p q v
  refine ⟨fun ram => ?_, fun other => ?_, State.writeByte_ignored v, fun uncovered => ?_,
    fun before r after hmap hbefore hbase hsize => ?_⟩
  · rw [State.readByte_writeByte, State.readAfterStore_eq, if_pos ⟨ram, rfl⟩]
  · rw [State.readByte_writeByte, State.readAfterStore_eq, if_neg fun h => other h.2]
  · simp [State.isRam, State.isAbsent, regionKind_of_uncovered uncovered]
  · simp [State.isRam, State.isAbsent, hmap, regionKind_of_first_covering hbefore ⟨hbase, hsize⟩]

/-! ### The stack -/

/-- R66: SP after a push of two bytes. -/
theorem sub_one_sub_one (v : Word) : v - 1 - 1 = v - 2 := by bv_omega

/-- R66: a push puts its pair on the stack. -/
theorem State.pushed_push (s : State) (h l : Byte) : s.pushed (s.push h l) h l := by
  refine ⟨sub_one_sub_one s.sp, fun p => ?_⟩
  have twoStores : (s.push h l).readByte p =
      ((s.writeByte (s.sp - 1) h).writeByte (s.sp - 1 - 1) l).readByte p := rfl
  have distinct : s.sp - 1 ≠ s.sp - 2 := by bv_omega
  rw [twoStores, State.readByte_writeByte, State.readAfterStore_eq, State.readByte_writeByte,
    State.readAfterStore_eq, sub_one_sub_one,
    State.isRam_congr (s := s) (t := s.writeByte (s.sp - 1) h) rfl, State.readAfterPush]
  generalize s.sp - 1 = above at distinct
  generalize s.sp - 2 = below at distinct
  by_cases high : p = above
  · simp [high, distinct]
  · by_cases low : p = below
    · simp [low, distinct.symm]
    · simp [high, low]

/-- R66: all that a push changes. -/
theorem State.push_frame (s : State) (h l : Byte) :
    s.push h l = { s with sp := s.sp - 2, mem := (s.push h l).mem } := by
  rw [← sub_one_sub_one]
  rfl

/-- Settles O11: a push of a word is a push of its halves. -/
theorem pushStoresHighByteAbove : Obligations.PushStoresHighByteAbove := by
  unfold Obligations.PushStoresHighByteAbove
  exact fun s v => ⟨s.pushed_push (hi v) (lo v), s.push_frame (hi v) (lo v)⟩

/-- R66: the high byte stands at the old SP - 1. -/
theorem State.readAfterPush_high {s : State} (h l : Byte) (ram : s.isRam (s.sp - 1) = true) :
    s.readAfterPush h l (s.sp - 1) = h := if_pos ⟨ram, rfl⟩

/-- R66: the low byte stands at the old SP - 2. -/
theorem State.readAfterPush_low {s : State} (h l : Byte) (ram : s.isRam (s.sp - 2) = true) :
    s.readAfterPush h l (s.sp - 2) = l := by
  have distinct : s.sp - 2 ≠ s.sp - 1 := by bv_omega
  exact (if_neg fun e => distinct e.2).trans (if_pos ⟨ram, rfl⟩)

/-- R67: the low byte of a pushed pair is popped again. -/
theorem State.popLow_of_pushed {s t : State} {h l : Byte} (ht : s.pushed t h l)
    (ram : s.isRam (s.sp - 2) = true) : t.popLow = l := by
  rw [State.popLow, ht.1, ht.2, State.readAfterPush_low h l ram]

/-- R67: the high byte of a pushed pair is popped again. -/
theorem State.popHigh_of_pushed {s t : State} {h l : Byte} (ht : s.pushed t h l)
    (ram : s.isRam (s.sp - 1) = true) : t.popHigh = h := by
  have above : s.sp - 2 + 1 = s.sp - 1 := by bv_omega
  rw [State.popHigh, ht.1, ht.2, above, State.readAfterPush_high h l ram]

/-- R66, R67: a push and the drop of the pair leave a change of memory alone. -/
theorem State.dropPair_push (s : State) (h l : Byte) :
    (s.push h l).dropPair = { s with mem := (s.push h l).mem } := by
  have back : s.sp - 2 + 2 = s.sp := by bv_omega
  rw [State.push_frame, State.dropPair_eq]
  simp only [back]

/-! ### Fetches after a store -/

/-- R77: the fetch at the PC of a state that a pair was pushed into. -/
theorem State.fetch_of_pushed {s t : State} {h l : Byte} (ht : s.pushed t h l) :
    t.fetch = decodeBytes (s.readAfterPush h l t.pc) (s.readAfterPush h l (t.pc + 1))
      (s.readAfterPush h l (t.pc + 2)) := by
  rw [State.fetch, ht.2, ht.2, ht.2]

/-- R68: the entry of the vector table, read from its two addresses. -/
theorem State.vectorEntry_eq (s : State) (v : Byte) :
    s.vectorEntry v =
      concat (s.readByte (BitVec.ofNat 16 (2 * v.toNat + 1))) (s.readByte (BitVec.ofNat 16 (2 * v.toNat))) := by
  rw [State.vectorEntry, vectorAddress, BitVec.ofNat_add]
  rfl

end Sys2Proof.Machine
end

section
/-! The instructions that store, push and pop, and the transfers that use the stack (40_data_transfer.md,
43_control_transfer.md sections 3 to 5): forms, meanings, and pushes undone by pops. -/

namespace Sys2Proof.Machine

/-! ### The meanings -/

/-- R131. -/
theorem exec_movMem8 (dst : Mem8) (src : Reg8) (s : State) :
    exec (.movMem8 dst src) s = .next (s.writeByte (s.ea dst) (s.reg8 src)) := rfl

/-- R137. -/
theorem exec_pushAF (s : State) :
    exec .pushAF s = .next (s.push s.a (s.flags.toByte (Config.unusedFBits s.tick))) := rfl

/-- R138. -/
theorem exec_pushBC (s : State) : exec .pushBC s = .next (s.push s.b s.c) := rfl

/-- R139. -/
theorem exec_pushX (s : State) : exec .pushX s = .next (s.push (hi s.x) (lo s.x)) := rfl

/-- R140. -/
theorem exec_popAF (s : State) :
    exec .popAF s = .next { s.dropPair with a := s.popHigh, flags := Flags.ofByte s.popLow } := rfl

/-- R141. -/
theorem exec_popBC (s : State) :
    exec .popBC s = .next { s.dropPair with b := s.popHigh, c := s.popLow } := rfl

/-- R142. -/
theorem exec_popX (s : State) :
    exec .popX s = .next { s.dropPair with x := concat s.popHigh s.popLow } := rfl

/-- R242. -/
theorem exec_jmpReg (r : Reg16) (s : State) : exec (.jmpReg r) s = .next { s with pc := s.reg16 r } := rfl

/-- R243. -/
theorem exec_call (addr : Word) (s : State) :
    exec (.call addr) s = .next { s.push (hi s.pc) (lo s.pc) with pc := addr } := rfl

/-- R244. -/
theorem exec_ret (s : State) :
    exec .ret s = .next { s.dropPair with pc := concat s.popHigh s.popLow } := rfl

/-- R245. -/
theorem exec_int (v : Byte) (s : State) : exec (.int v) s = .next (s.takeVector v) := rfl

/-- R271. -/
theorem exec_hlt (s : State) :
    exec .hlt s =
      .next { s with halted := true, pc := if s.params.hltAdvancesPc then s.pc else s.pc - 1 } := rfl

/-- R245, R339: where the transfer through the table leaves the pushed PC. -/
theorem State.pushed_takeVector (s : State) (v : Byte) :
    s.pushed (s.takeVector v) (hi s.pc) (lo s.pc) :=
  State.pushed_push s _ _

/-- R68: PC after the transfer, read from the table as the push left it. -/
theorem State.takeVector_pc_eq (s : State) (v : Byte) :
    (s.takeVector v).pc =
      concat ((s.takeVector v).readByte (BitVec.ofNat 16 (2 * v.toNat + 1)))
        ((s.takeVector v).readByte (BitVec.ofNat 16 (2 * v.toNat))) := by
  rw [State.takeVector_pc, State.vectorEntry_eq]
  rfl

/-! ### The byte of F -/

/-- R25: bit `k` of the byte of F, for each of the six flags. -/
theorem Flags.getLsbD_toByte (f : Flags) (u : BitVec 2) :
    (f.toByte u).getLsbD 0 = f.fc ∧ (f.toByte u).getLsbD 1 = f.fz ∧ (f.toByte u).getLsbD 2 = f.fo ∧
      (f.toByte u).getLsbD 3 = f.fs ∧ (f.toByte u).getLsbD 4 = f.fp ∧ (f.toByte u).getLsbD 5 = f.fi := by
  have bits (k : Nat) : (f.toByte u).getLsbD k =
      BitVec.getLsbD (w := 2 + 1 + 1 + 1 + 1 + 1 + 1) (u ++ BitVec.ofBool f.fi ++ BitVec.ofBool f.fp ++
        BitVec.ofBool f.fs ++ BitVec.ofBool f.fo ++ BitVec.ofBool f.fz ++ BitVec.ofBool f.fc) k := rfl
  simp only [bits, BitVec.getLsbD_append]
  simp

/-- R25, R140: the six flags come back from the byte of F, whatever bits 7 and 6 hold. -/
theorem Flags.ofByte_toByte (f : Flags) (u : BitVec 2) : Flags.ofByte (f.toByte u) = f := by
  obtain ⟨hc, hz, ho, hs, hp, hi⟩ := f.getLsbD_toByte u
  rw [Flags.ofByte, hc, hz, ho, hs, hp, hi]

/-! ### Results -/

/-- Settles O30: the meaning is a store, read back by `readByte_writeByte`. -/
theorem movMem8 : Obligations.MovMem8 := by
  unfold Obligations.MovMem8
  intro s dst r
  refine ⟨⟨rfl, fun _ => rfl⟩, _, exec_movMem8 dst r s, rfl, fun p => ?_⟩
  rw [State.readByte_writeByte, State.readAfterStore_eq]
  by_cases here : p = s.ea dst
  · subst here; cases r <;> rfl
  · rw [if_neg fun h => here h.2, if_neg fun h => here h.2]

/-- Settles O32: each of the three is a push; the byte of F holds the six flags. -/
theorem pushes : Obligations.Pushes := by
  unfold Obligations.Pushes
  intro s
  exact ⟨⟨rfl, fun _ => rfl⟩, ⟨rfl, fun _ => rfl⟩, ⟨rfl, fun _ => rfl⟩,
    ⟨_, exec_pushBC s, s.pushed_push _ _, rfl⟩, ⟨_, exec_pushX s, s.pushed_push _ _, rfl⟩,
    ⟨_, _, exec_pushAF s, s.pushed_push _ _, rfl, s.flags.getLsbD_toByte _⟩⟩

/-- Settles O33: each meaning is the drop of a pair with its two bytes loaded. -/
theorem pops : Obligations.Pops := by
  unfold Obligations.Pops
  exact fun s => ⟨⟨rfl, fun _ => rfl⟩, ⟨rfl, fun _ => rfl⟩, ⟨rfl, fun _ => rfl⟩,
    exec_popAF s, exec_popBC s, exec_popX s⟩

/-- Settles O12: the drop of the pair leaves memory changed alone, and the two bytes popped are the two
pushed. -/
theorem popUndoesPush : Obligations.PopUndoesPush := by
  unfold Obligations.PopUndoesPush
  intro s ramHigh ramLow
  have high (h l : Byte) : (s.push h l).popHigh = h := State.popHigh_of_pushed (s.pushed_push h l) ramHigh
  have low (h l : Byte) : (s.push h l).popLow = l := State.popLow_of_pushed (s.pushed_push h l) ramLow
  refine ⟨⟨_, exec_pushX s, ?popX⟩, ⟨_, exec_pushBC s, ?popBC⟩, ⟨_, exec_pushAF s, ?popAF⟩,
    ⟨_, exec_pushBC s, ?copy⟩⟩
  case popX => rw [exec_popX, high, low, State.dropPair_push, concat_hi_lo]
  case popBC => rw [exec_popBC, high, low, State.dropPair_push]
  case popAF => rw [exec_popAF, high, low, State.dropPair_push, Flags.ofByte_toByte]
  case copy => rw [exec_popX, high, low, State.dropPair_push]

/-- Settles O50: the meaning at each of the three registers. -/
theorem jmpReg16 : Obligations.JmpReg16 := by
  unfold Obligations.JmpReg16
  exact fun s => ⟨fun _ => ⟨rfl, fun _ => rfl⟩, exec_jmpReg .bc s, exec_jmpReg .x s, exec_jmpReg .sp s⟩

/-- Settles O51: the meaning is a push of PC with PC loaded. -/
theorem callResult : Obligations.CallResult := by
  unfold Obligations.CallResult
  intro s p
  refine ⟨⟨?_, fun _ => rfl⟩, _, exec_call p s, s.pushed_push _ _, rfl⟩
  rw [← wordBytes_eq]
  rfl

/-- Settles O52: the meaning is the drop of a pair with PC loaded from it. -/
theorem retResult : Obligations.RetResult := by
  unfold Obligations.RetResult
  exact fun s => ⟨⟨rfl, fun _ => rfl⟩, exec_ret s⟩

/-- Settles O53: the meaning is the transfer through the vector table. -/
theorem intResult : Obligations.IntResult := by
  unfold Obligations.IntResult
  exact fun s v => ⟨⟨rfl, fun _ => rfl⟩, _, exec_int v s, s.pushed_takeVector v, s.takeVector_pc_eq v, rfl⟩

/-- Settles O55: the form and the meaning. -/
theorem hltResult : Obligations.HltResult := by
  unfold Obligations.HltResult
  exact fun s => ⟨⟨rfl, fun _ => rfl⟩, exec_hlt s⟩

/-- R244, R344: a return from a state that PC was pushed into, whatever that state changed besides. -/
theorem exec_ret_of_pushed {s t : State} {pc : Word} (ht : s.pushed t (hi pc) (lo pc))
    (ramHigh : s.isRam (s.sp - 1) = true) (ramLow : s.isRam (s.sp - 2) = true) :
    exec .ret t = .next { t with sp := s.sp, pc := pc } := by
  have back : s.sp - 2 + 2 = s.sp := by bv_omega
  rw [exec_ret, State.popHigh_of_pushed ht ramHigh, State.popLow_of_pushed ht ramLow, concat_hi_lo,
    State.dropPair_eq, ht.1, back]

/-- Settles O22: in all three cases PC was pushed, and the return pops it. -/
theorem returnUndoesTransfer : Obligations.ReturnUndoesTransfer := by
  unfold Obligations.ReturnUndoesTransfer
  intro s target v ramHigh ramLow
  refine ⟨⟨_, exec_call target s, ?call⟩, ⟨_, exec_int v s, ?int⟩, ?interrupt⟩
  case call => exact exec_ret_of_pushed (s.pushed_push (hi s.pc) (lo s.pc)) ramHigh ramLow
  case int => exact exec_ret_of_pushed (s.pushed_takeVector v) ramHigh ramLow
  case interrupt =>
    have keepsOrClears : (if s.params.hwintClearsFi then { s.flags with fi := false } else s.flags) =
        { s.flags with fi := s.flags.fi && !s.params.hwintClearsFi } := by
      cases s.params.hwintClearsFi <;> simp
    have entered : s.pushed (s.hwInterruptEntry v) (hi s.pc) (lo s.pc) := s.pushed_takeVector v
    rw [exec_ret_of_pushed entered ramHigh ramLow, ← keepsOrClears]
    rfl

/-- Settles O15: the fetch reads at the PC each instruction leaves, as its store or its push left memory. -/
theorem nextFetchSeesStore : Obligations.NextFetchSeesStore := by
  unfold Obligations.NextFetchSeesStore
  refine fun s => ⟨fun dst r => ⟨_, exec_movMem8 dst r s, rfl, ?store⟩, fun target v => ?pushes⟩
  case store => simp only [State.fetch, State.readByte_writeByte, State.writeByte_pc]
  case pushes =>
    simp only [List.forall_mem_cons]
    refine ⟨⟨_, exec_pushAF s, rfl, State.fetch_of_pushed (s.pushed_push _ _)⟩,
      ⟨_, exec_pushBC s, rfl, State.fetch_of_pushed (s.pushed_push _ _)⟩,
      ⟨_, exec_pushX s, rfl, State.fetch_of_pushed (s.pushed_push _ _)⟩,
      ⟨_, exec_call target s, rfl,
        State.fetch_of_pushed (t := { s.push _ _ with pc := target }) (s.pushed_push _ _)⟩,
      ⟨_, exec_int v s, ?pc, ?fetch⟩, List.forall_mem_nil _⟩
    case pc =>
      rw [State.takeVector_pc_eq, (s.pushed_takeVector v).2, (s.pushed_takeVector v).2]
      rfl
    case fetch =>
      have pc := s.takeVector_pc_eq v
      rw [(s.pushed_takeVector v).2, (s.pushed_takeVector v).2] at pc
      rw [State.fetch_of_pushed (s.pushed_takeVector v), pc]
      rfl

end Sys2Proof.Machine
end

section
/-! What each instruction changes, as data: the registers and flags it writes with their new values, the bytes
it stores and the port event it adds. `exec_eq_apply` ties this table to the meanings; the frame, the flag
matrix and the dependence on what is read (10_state.md R33, R41) then compare tables. -/

namespace Sys2Proof.Machine

/-! ### Effects -/

/-- The writes of an instruction; what is not mentioned stays. -/
structure Effect where
  a : Option Byte := none
  b : Option Byte := none
  c : Option Byte := none
  flags : Flag → Option Bool := fun _ => none
  x : Option Word := none
  sp : Option Word := none
  pc : Option Word := none
  halted : Option Bool := none
  /-- addresses with the bytes stored, in order -/
  stores : List (Word × Byte) := []
  event : Option PortEvent := none

/-- Stores, one after another. -/
def State.storeAll (s : State) (ws : List (Word × Byte)) : State :=
  ws.foldl (fun t w => t.writeByte w.1 w.2) s

/-- Flags with some of them written. -/
def Flags.updated (f : Flags) (u : Flag → Option Bool) : Flags :=
  { fc := (u .c).getD f.fc, fz := (u .z).getD f.fz, fo := (u .o).getD f.fo, fs := (u .s).getD f.fs,
    fp := (u .p).getD f.fp, fi := (u .i).getD f.fi }

/-- The state with the writes of an effect carried out. -/
def Effect.apply (e : Effect) (s : State) : State :=
  { s with
    a := e.a.getD s.a, b := e.b.getD s.b, c := e.c.getD s.c, flags := s.flags.updated e.flags
    x := e.x.getD s.x, sp := e.sp.getD s.sp, pc := e.pc.getD s.pc, halted := e.halted.getD s.halted
    mem := (s.storeAll e.stores).mem
    portLog := match e.event with
      | none => s.portLog
      | some v => s.portLog ++ [v] }

/-- The new content of a register, if it is written, as a number. -/
def Effect.value (e : Effect) : Reg → Option Nat
  | .a => e.a.map BitVec.toNat
  | .b => e.b.map BitVec.toNat
  | .c => e.c.map BitVec.toNat
  | .x => e.x.map BitVec.toNat
  | .sp => e.sp.map BitVec.toNat
  | .pc => e.pc.map BitVec.toNat
  | .halted => e.halted.map Bool.toNat

/-- C, Z, O, S, P of a result. -/
def AluOut.czosp (u : AluOut) : Flag → Option Bool
  | .c => some u.c
  | .z => some u.z
  | .o => some u.o
  | .s => some u.s
  | .p => some u.p
  | .i => none

/-- Z, O, S, P of a result. -/
def AluOut.zosp (u : AluOut) : Flag → Option Bool
  | .c => none
  | k => u.czosp k

/-- A and five flags take a result. -/
def Effect.alu (u : AluOut) : Effect := { a := some u.r, flags := u.czosp }

/-- One flag is written. -/
def Effect.flag (k : Flag) (v : Bool) : Effect := { flags := fun j => if j = k then some v else none }

/-- An 8-bit register is written, and flags. -/
def Effect.reg8 (r : Reg8) (v : Byte) (f : Flag → Option Bool) : Effect :=
  { a := if r = .a then some v else none, b := if r = .b then some v else none
    c := if r = .c then some v else none, flags := f }

/-- A 16-bit register is written. -/
def Effect.reg16 (r : Reg16) (v : Word) : Effect :=
  { b := if r = .bc then some (hi v) else none, c := if r = .bc then some (lo v) else none
    x := if r = .x then some v else none, sp := if r = .sp then some v else none }

/-- A pair is pushed. -/
def Effect.push (sp : Word) (h l : Byte) : Effect :=
  { sp := some (sp - 1 - 1), stores := [(sp - 1, h), (sp - 1 - 1, l)] }

/-- PC is written. -/
def Effect.jump (p : Word) : Effect := { pc := some p }

/-- The effect of an instruction on a state whose PC is past it. -/
def Instr.effect (s : State) (i : Instr) : Effect :=
  match i with
  | .nop => {}
  | .popAF =>
    { a := some s.popHigh, flags := fun k => some ((Flags.ofByte s.popLow).get k), sp := some (s.sp + 2) }
  | .popBC => { b := some s.popHigh, c := some s.popLow, sp := some (s.sp + 2) }
  | .popX => { x := some (concat s.popHigh s.popLow), sp := some (s.sp + 2) }
  | .pushAF => .push s.sp s.a (s.flags.toByte (Config.unusedFBits s.tick))
  | .pushBC => .push s.sp s.b s.c
  | .pushX => .push s.sp (hi s.x) (lo s.x)
  | .ret => { sp := some (s.sp + 2), pc := some (concat s.popHigh s.popLow) }
  | .stc => .flag .c true
  | .sti => .flag .i true
  | .call p => { Effect.push s.sp (hi s.pc) (lo s.pc) with pc := some p }
  | .cli => .flag .i false
  | .clc => .flag .c false
  | .hlt => { halted := some true, pc := some (if s.params.hltAdvancesPc then s.pc else s.pc - 1) }
  | .inAC =>
    { a := some (Config.portOracle s.tick s.c), event := some (.read s.c (Config.portOracle s.tick s.c)) }
  | .int v => { Effect.push s.sp (hi s.pc) (lo s.pc) with pc := some (s.takeVector v).pc }
  | .jc d | .jnc d | .jno d | .jnp d | .jns d | .jnz d | .jo d | .jp d | .js d | .jz d =>
    .jump (if Instr.taken s.flags i then s.pc + sext16 d else s.pc)
  | .jmpAddr p => .jump p
  | .jmpReg r => .jump (s.reg16 r)
  | .outCA => { event := some (.write s.c s.a) }
  | .decReg16 r => .reg16 r (s.reg16 r - 1)
  | .incReg16 r => .reg16 r (s.reg16 r + 1)
  | .movMem8 m r => { stores := [(s.ea m, s.reg8 r)] }
  | .movReg16 r q => .reg16 r (s.readOp16 q)
  | .movReg8 r q => .reg8 r (s.readOp8 q) fun _ => none
  | .cmp q => { flags := (sub8 s.a (s.readOp8 q) false).czosp }
  | .add q => .alu (add8 s.a (s.readOp8 q) false)
  | .adc q => .alu (add8 s.a (s.readOp8 q) s.flags.fc)
  | .and q => .alu (logic8 (s.a &&& s.readOp8 q))
  | .or q => .alu (logic8 (s.a ||| s.readOp8 q))
  | .sbb q => .alu (sub8 s.a (s.readOp8 q) s.flags.fc)
  | .sub q => .alu (sub8 s.a (s.readOp8 q) false)
  | .xor q => .alu (logic8 (s.a ^^^ s.readOp8 q))
  | .decReg8 r => .reg8 r (sub8 (s.reg8 r) 1 false).r (sub8 (s.reg8 r) 1 false).zosp
  | .incReg8 r => .reg8 r (add8 (s.reg8 r) 1 false).r (add8 (s.reg8 r) 1 false).zosp
  | .neg => .alu (sub8 0 s.a false)
  | .not => .alu (logic8 (s.a ^^^ 0xFF))
  | .rol => .alu (rol8 s.a)
  | .ror => .alu (ror8 s.a)
  | .rcl => .alu (rcl8 s.a s.flags.fc)
  | .rcr => .alu (rcr8 s.a s.flags.fc)
  | .shl => .alu (shl8 s.a)
  | .shr => .alu (shr8 s.a)
  | .sar => .alu (sar8 s.a)

/-! ### The effects carry the meanings out -/

/-- The conditional jump writes PC alone. -/
theorem Effect.jump_apply (s : State) (cond : Bool) (d : Byte) :
    (Effect.jump (if cond then s.pc + sext16 d else s.pc)).apply s = s.jumpIf cond d :=
  (s.jumpIf_eq cond d).symm

/-- The write of a 16-bit register. -/
theorem Effect.reg16_apply (s : State) (r : Reg16) (v : Word) :
    (Effect.reg16 r v).apply s = s.setReg16 r v := by
  cases r <;> rfl

/-- Every instruction answers a next state, the one its effect gives. -/
theorem exec_eq_apply (i : Instr) (s : State) : exec i s = .next ((Instr.effect s i).apply s) := by
  cases i
  case jc | jnc | jno | jnp | jns | jnz | jo | jp | js | jz =>
    exact congrArg Host.Outcome.next (Effect.jump_apply s _ _).symm
  case decReg16 | incReg16 | movReg16 =>
    exact congrArg Host.Outcome.next (Effect.reg16_apply s _ _).symm
  case movReg8 r q => cases r <;> rfl
  case incReg8 r => cases r <;> rfl
  case decReg8 r => cases r <;> rfl
  all_goals rfl

/-- The next state of an instruction, once it is known to be one. -/
theorem eq_apply_of_exec {i : Instr} {s t : State} (h : exec i s = .next t) :
    t = (Instr.effect s i).apply s := by
  rw [exec_eq_apply] at h
  exact (Host.Outcome.next.inj h).symm

/-! ### What an effect leaves alone -/

theorem Effect.apply_params (e : Effect) (s : State) : (e.apply s).params = s.params := rfl

theorem Effect.apply_mem (e : Effect) (s : State) : (e.apply s).mem = (s.storeAll e.stores).mem := rfl

theorem Effect.apply_irq (e : Effect) (s : State) : (e.apply s).irq = s.irq := rfl

theorem Effect.apply_tick (e : Effect) (s : State) : (e.apply s).tick = s.tick := rfl

theorem Effect.apply_cycles (e : Effect) (s : State) : (e.apply s).cycles = s.cycles := rfl

/-- A flag is the one written, or the old one. -/
theorem Effect.apply_flags_get (e : Effect) (s : State) (k : Flag) :
    (e.apply s).flags.get k = (e.flags k).getD (s.flags.get k) := by
  cases k <;> rfl

/-- A register is the one written, or the old one. -/
theorem Effect.apply_get (e : Effect) (s : State) (r : Reg) :
    (e.apply s).get r = (e.value r).getD (s.get r) := by
  cases r <;> simp only [Effect.apply, Effect.value, State.get] <;>
    rw [Option.getD_map]

/-- The port log is longer by the event, if there is one. -/
theorem Effect.apply_portLog (e : Effect) (s : State) :
    (e.apply s).portLog = s.portLog ++ e.event.toList := by
  rcases e with ⟨_, _, _, _, _, _, _, _, _, event⟩
  cases event
  · exact (List.append_nil _).symm
  · rfl

/-- Stores change memory alone. -/
theorem State.storeAll_frame (s : State) (ws : List (Word × Byte)) :
    s.storeAll ws = { s with mem := (s.storeAll ws).mem } := by
  induction ws generalizing s with
  | nil => rfl
  | cons w ws ih => exact ih (s.writeByte w.1 w.2)

/-- Memory after stores depends on memory and on the memory map alone. -/
theorem State.storeAll_mem_congr {s u : State} (hm : s.mem = u.mem) (hp : s.params = u.params)
    (ws : List (Word × Byte)) : (s.storeAll ws).mem = (u.storeAll ws).mem := by
  induction ws generalizing s u with
  | nil => exact hm
  | cons w ws ih =>
    refine ih ?_ hp
    rw [State.writeByte_mem, State.writeByte_mem, hm, State.isRam_congr hp]

/-- Addresses that no store names read as before. -/
theorem State.storeAll_readByte (s : State) {ws : List (Word × Byte)} {p : Word}
    (h : p ∉ ws.map Prod.fst) : (s.storeAll ws).readByte p = s.readByte p := by
  induction ws generalizing s with
  | nil => rfl
  | cons w ws ih =>
    simp only [List.map_cons, List.mem_cons, not_or] at h
    refine (ih (s.writeByte w.1 w.2) h.2).trans ?_
    rw [State.readByte_writeByte, State.readAfterStore_eq, if_neg fun e => h.1 e.2]

/-- What the effect does not store to reads as before. -/
theorem Effect.apply_readByte (e : Effect) (s : State) {p : Word} (h : p ∉ e.stores.map Prod.fst) :
    (e.apply s).readByte p = s.readByte p := by
  have frame := s.storeAll_frame e.stores
  have sameMemory : (e.apply s).readByte p = (s.storeAll e.stores).readByte p := by
    rw [frame]; rfl
  rw [sameMemory, s.storeAll_readByte h]

/-- Stores keep the canonical form of memory. -/
theorem State.storeAll_wf {s : State} (h : Memory.wf s.mem = true) (ws : List (Word × Byte)) :
    Memory.wf (s.storeAll ws).mem = true := by
  induction ws generalizing s with
  | nil => exact h
  | cons w ws ih => exact ih (State.writeByte_wf w.1 w.2 h)

/-! ### The tables of the statements -/

/-- What a mark of the flag matrix says of the value written (R33). -/
def Mark.Describes : Mark → Option Bool → Prop
  | .zero, v => v = some false
  | .one, v => v = some true
  | .updated, v => v.isSome = true
  | .unchanged, v => v = none

/-- R33: the flag matrix describes the flags that effects write. -/
theorem flagMark_describes (i : Instr) (s : State) (k : Flag) :
    (flagMark i k).Describes ((Instr.effect s i).flags k) := by
  cases i
  case adc | add | cmp | sub | sbb | neg | rcl | rcr | rol | ror | shl | and | or | xor | not | incReg8
      | decReg8 | shr | sar | popAF | clc | stc | cli | sti => cases k <;> rfl
  all_goals rfl

/-- Settles O26: a flag that the effect does not write stays, a constant mark gives the value written. -/
theorem flagMatrix : Obligations.FlagMatrix := by
  unfold Obligations.FlagMatrix
  intro i s
  refine ⟨_, exec_eq_apply i s, fun k => ?_⟩
  have described := flagMark_describes i s k
  rw [Effect.apply_flags_get]
  refine ⟨fun m => ?_, fun m => ?_, fun m => ?_⟩ <;>
    · rw [m] at described
      rw [show _ = _ from described]
      rfl

/-- R41, column "writes": the registers that effects write, PC of `HLT` besides. -/
theorem effect_value_isSome (i : Instr) (s : State) (k : Reg) (h : i = .hlt → k ≠ .pc) :
    ((Instr.effect s i).value k).isSome = decide (k ∈ Instr.writes i) := by
  cases i
  case hlt =>
    cases k
    case pc => exact absurd rfl (h rfl)
    all_goals rfl
  case movReg8 r _ | incReg8 r | decReg8 r => cases r <;> cases k <;> rfl
  case movReg16 r _ | incReg16 r | decReg16 r => cases r <;> cases k <;> rfl
  all_goals cases k <;> rfl

/-- R62: the addresses that effects store to. -/
theorem effect_stores (i : Instr) (s : State) :
    (Instr.effect s i).stores.map Prod.fst = Instr.stores s i := by
  cases i
  case pushAF | pushBC | pushX | call | int =>
    exact congrArg (fun p => [s.sp - 1, p]) (sub_one_sub_one s.sp)
  all_goals rfl

/-- R61: `IN` and `OUT` alone have a port event. -/
theorem effect_event (i : Instr) (s : State) (hin : i ≠ .inAC) (hout : i ≠ .outCA) :
    (Instr.effect s i).event = none := by
  cases i
  case inAC => exact absurd rfl hin
  case outCA => exact absurd rfl hout
  all_goals rfl

/-- R36: `HLT` alone writes the halt state. -/
theorem effect_halted (i : Instr) (s : State) (h : i ≠ .hlt) : (Instr.effect s i).halted = none := by
  cases i
  case hlt => exact absurd rfl h
  all_goals rfl

end Sys2Proof.Machine
end

section
/-! The frame of every instruction, and what its effect depends on (10_state.md R41). -/

namespace Sys2Proof.Machine

/-- Settles O27: what the effect does not mention is kept. -/
theorem onlyListedStateChanges : Obligations.OnlyListedStateChanges := by
  unfold Obligations.OnlyListedStateChanges
  intro i s
  refine ⟨_, exec_eq_apply i s, fun r notWritten hltPc => ?reg, fun p notStored => ?mem,
    fun hin hout => ?ports, Effect.apply_params _ s, Effect.apply_tick _ s, Effect.apply_irq _ s,
    Effect.apply_cycles _ s⟩
  case reg =>
    by_cases hlt : i = .hlt ∧ r = .pc
    · obtain ⟨rfl, rfl⟩ := hlt
      have advances := hltPc rfl rfl
      simp [Instr.effect, Effect.apply, State.get, advances]
    · have unwritten : (Instr.effect s i).value r = none := by
        rw [← Option.isSome_eq_false_iff.trans Option.isNone_iff_eq_none,
          effect_value_isSome i s r fun h1 h2 => hlt ⟨h1, h2⟩]
        exact decide_eq_false notWritten
      rw [Effect.apply_get, unwritten, Option.getD_none]
  case mem => exact Effect.apply_readByte _ s (by rwa [effect_stores])
  case ports => rw [Effect.apply_portLog, effect_event i s hin hout, Option.toList_none, List.append_nil]

/-! ### Reads -/

section
variable {s u : State}

/-- A register read is the register's content, as a number. -/
theorem State.reg8_eq_of_get {r : Reg8} (h : ∀ k ∈ Reg8.regs r, s.get k = u.get k) :
    s.reg8 r = u.reg8 r := by
  cases r <;> exact BitVec.eq_of_toNat_eq (h _ (List.mem_singleton.2 rfl))

/-- R21: BC is read through B and C. -/
theorem State.bc_eq_of_get (h : ∀ k ∈ [Reg.b, .c], s.get k = u.get k) : s.b = u.b ∧ s.c = u.c :=
  ⟨BitVec.eq_of_toNat_eq (h .b (by decide)), BitVec.eq_of_toNat_eq (h .c (by decide))⟩

/-- A 16-bit register read is the contents of the registers it consists of. -/
theorem State.reg16_eq_of_get {r : Reg16} (h : ∀ k ∈ Reg16.regs r, s.get k = u.get k) :
    s.reg16 r = u.reg16 r := by
  cases r
  case bc =>
    obtain ⟨hb, hc⟩ := State.bc_eq_of_get h
    rw [State.reg16_bc, State.reg16_bc, hb, hc]
  all_goals exact BitVec.eq_of_toNat_eq (h _ (List.mem_singleton.2 rfl))

/-- The effective address depends on the registers that form it. -/
theorem State.ea_eq_of_get {m : Mem8} (h : ∀ k ∈ Mem8.regs m, s.get k = u.get k) : s.ea m = u.ea m := by
  cases m
  case addr => rfl
  case atBC =>
    obtain ⟨hb, hc⟩ := State.bc_eq_of_get h
    rw [State.ea_atBC, State.ea_atBC, hb, hc]
  case atX =>
    have hx : s.x = u.x := BitVec.eq_of_toNat_eq (h .x (List.mem_singleton.2 rfl))
    rw [State.ea_atX, State.ea_atX, hx]

/-- An `op16` read depends on its register. -/
theorem State.readOp16_eq_of_get {q : Op16} (h : ∀ k ∈ Op16.regs q, s.get k = u.get k) :
    s.readOp16 q = u.readOp16 q := by
  cases q
  case reg => exact State.reg16_eq_of_get h
  case dat16 => rfl

/-- The states agree on what a read of memory and of a port depends on. -/
structure State.SameSurroundings (s u : State) : Prop where
  mem : s.mem = u.mem
  params : s.params = u.params
  tick : s.tick = u.tick

/-- They read the same byte at every address. -/
theorem State.SameSurroundings.readByte (same : s.SameSurroundings u) (p : Word) :
    s.readByte p = u.readByte p :=
  State.readByte_congr same.mem same.params same.tick p

/-- An `op8` read depends on its registers and on memory. -/
theorem State.readOp8_eq_of_get (same : s.SameSurroundings u) {q : Op8}
    (h : ∀ k ∈ Op8.regs q, s.get k = u.get k) : s.readOp8 q = u.readOp8 q := by
  cases q
  case mem m => rw [State.readOp8_mem, State.readOp8_mem, same.readByte, State.ea_eq_of_get h]
  case reg => exact State.reg8_eq_of_get h
  case dat8 => rfl

/-- The high byte a pop reads depends on SP and on memory. -/
theorem State.popHigh_eq (same : s.SameSurroundings u) (hsp : s.sp = u.sp) : s.popHigh = u.popHigh := by
  rw [State.popHigh, State.popHigh, same.readByte, hsp]

/-- The low byte a pop reads depends on SP and on memory. -/
theorem State.popLow_eq (same : s.SameSurroundings u) (hsp : s.sp = u.sp) : s.popLow = u.popLow := by
  rw [State.popLow, State.popLow, same.readByte, hsp]

/-- What an address reads as after a push depends on SP and on memory. -/
theorem State.readAfterPush_eq (same : s.SameSurroundings u) (hsp : s.sp = u.sp) (h l : Byte) (p : Word) :
    s.readAfterPush h l p = u.readAfterPush h l p := by
  rw [State.readAfterPush, State.readAfterPush, State.isRam_congr same.params, same.readByte, hsp]

/-- The handler address depends on SP, PC and memory: the push of PC may reach the table. -/
theorem State.takeVector_pc_congr (same : s.SameSurroundings u) (hsp : s.sp = u.sp) (hpc : s.pc = u.pc)
    (v : Byte) : (s.takeVector v).pc = (u.takeVector v).pc := by
  rw [State.takeVector_pc_eq, State.takeVector_pc_eq]
  simp only [(s.pushed_takeVector v).2, (u.pushed_takeVector v).2, hpc, State.readAfterPush_eq same hsp]

/-- The operand of a binary instruction, with A. -/
theorem State.operands_eq_of_get (same : s.SameSurroundings u) {q : Op8}
    (h : ∀ k ∈ Reg.a :: Op8.regs q, s.get k = u.get k) : s.a = u.a ∧ s.readOp8 q = u.readOp8 q :=
  ⟨BitVec.eq_of_toNat_eq (h .a List.mem_cons_self),
    State.readOp8_eq_of_get same fun k hk => h k (List.mem_cons_of_mem _ hk)⟩

/-- Flags that agree one by one are the same. -/
theorem Flags.eq_of_get {f g : Flags} (h : ∀ k, f.get k = g.get k) : f = g := by
  cases f; cases g
  exact (Flags.mk.injEq ..).mpr ⟨h .c, h .z, h .o, h .s, h .p, h .i⟩

/-- R240: whether a jump is taken depends on the flag it tests. -/
theorem Flags.taken_eq {f g : Flags} {i : Instr} (h : ∀ k ∈ Instr.readsFlags i, f.get k = g.get k) :
    Instr.taken f i = Instr.taken g i := by
  cases i
  case jc | jo | jp | js | jz => exact h _ (List.mem_singleton.2 rfl)
  case jnc | jno | jnp | jns | jnz => exact congrArg Bool.not (h _ (List.mem_singleton.2 rfl))
  all_goals rfl

/-- R41, column "reads": but for `HLT`, whose PC the column leaves out, the effect of an instruction depends on
what it reads alone. -/
theorem effect_eq_of_reads {i : Instr} (notHlt : i ≠ .hlt) (same : s.SameSurroundings u)
    (regs : ∀ k ∈ Instr.reads i, s.get k = u.get k)
    (flags : ∀ k ∈ Instr.readsFlags i, s.flags.get k = u.flags.get k) :
    Instr.effect s i = Instr.effect u i := by
  have carry (h : Flag.c ∈ Instr.readsFlags i) : s.flags.fc = u.flags.fc := flags .c h
  cases i
  case hlt => exact absurd rfl notHlt
  case nop | stc | sti | cli | clc | jmpAddr => rfl
  case add | sub | and | or | xor | cmp =>
    obtain ⟨ha, hq⟩ := State.operands_eq_of_get same regs
    simp only [Instr.effect, ha, hq]
  case adc | sbb =>
    obtain ⟨ha, hq⟩ := State.operands_eq_of_get same regs
    simp only [Instr.effect, ha, hq, carry (List.mem_singleton.2 rfl)]
  case neg | not | rol | ror | shl | shr | sar =>
    have ha : s.a = u.a := BitVec.eq_of_toNat_eq (regs .a (List.mem_singleton.2 rfl))
    simp only [Instr.effect, ha]
  case rcl | rcr =>
    have ha : s.a = u.a := BitVec.eq_of_toNat_eq (regs .a (List.mem_singleton.2 rfl))
    simp only [Instr.effect, ha, carry (List.mem_singleton.2 rfl)]
  case incReg8 | decReg8 => simp only [Instr.effect, State.reg8_eq_of_get regs]
  case incReg16 | decReg16 | jmpReg => simp only [Instr.effect, State.reg16_eq_of_get regs]
  case movReg8 => simp only [Instr.effect, State.readOp8_eq_of_get same regs]
  case movReg16 => simp only [Instr.effect, State.readOp16_eq_of_get regs]
  case movMem8 m r =>
    have hr := State.reg8_eq_of_get fun k hk => regs k (List.mem_append_left _ hk)
    have hm := State.ea_eq_of_get fun k hk => regs k (List.mem_append_right _ hk)
    simp only [Instr.effect, hr, hm]
  case jc | jnc | jo | jno | jp | jnp | js | jns | jz | jnz =>
    have hpc : s.pc = u.pc := BitVec.eq_of_toNat_eq (regs .pc (List.mem_singleton.2 rfl))
    simp only [Instr.effect, Flags.taken_eq flags, hpc]
  case popAF | popBC | popX | ret =>
    have hsp : s.sp = u.sp := BitVec.eq_of_toNat_eq (regs .sp (List.mem_singleton.2 rfl))
    simp only [Instr.effect, State.popHigh_eq same hsp, State.popLow_eq same hsp, hsp]
  case pushBC =>
    have hsp : s.sp = u.sp := BitVec.eq_of_toNat_eq (regs .sp (by decide))
    obtain ⟨hb, hc⟩ := State.bc_eq_of_get fun k hk => regs k (List.mem_cons_of_mem _ hk)
    simp only [Instr.effect, hsp, hb, hc]
  case pushX =>
    have hsp : s.sp = u.sp := BitVec.eq_of_toNat_eq (regs .sp (by decide))
    have hx : s.x = u.x := BitVec.eq_of_toNat_eq (regs .x (by decide))
    simp only [Instr.effect, hsp, hx]
  case pushAF =>
    have hsp : s.sp = u.sp := BitVec.eq_of_toNat_eq (regs .sp (by decide))
    have ha : s.a = u.a := BitVec.eq_of_toNat_eq (regs .a (by decide))
    have hf : s.flags = u.flags := Flags.eq_of_get fun k => flags k (by cases k <;> decide)
    simp only [Instr.effect, hsp, ha, hf, same.tick]
  case call =>
    have hsp : s.sp = u.sp := BitVec.eq_of_toNat_eq (regs .sp (by simp [Instr.reads]))
    have hpc : s.pc = u.pc := BitVec.eq_of_toNat_eq (regs .pc (by simp [Instr.reads]))
    simp only [Instr.effect, hsp, hpc]
  case int v =>
    have hsp : s.sp = u.sp := BitVec.eq_of_toNat_eq (regs .sp (by simp [Instr.reads]))
    have hpc : s.pc = u.pc := BitVec.eq_of_toNat_eq (regs .pc (by simp [Instr.reads]))
    simp only [Instr.effect, State.takeVector_pc_congr same hsp hpc, hsp, hpc]
  case inAC =>
    have hc : s.c = u.c := BitVec.eq_of_toNat_eq (regs .c (by decide))
    simp only [Instr.effect, hc, same.tick]
  case outCA =>
    have hc : s.c = u.c := BitVec.eq_of_toNat_eq (regs .c (by decide))
    have ha : s.a = u.a := BitVec.eq_of_toNat_eq (regs .a (by decide))
    simp only [Instr.effect, hc, ha]

end

/-- Settles O28: the two effects agree on what the statement compares, `HLT` with its halt state alone. -/
theorem onlyListedStateIsRead : Obligations.OnlyListedStateIsRead := by
  unfold Obligations.OnlyListedStateIsRead
  intro i s u regs flags hmem hparams htick
  have agree : (∀ r ∈ Instr.writes i, (Instr.effect s i).value r = (Instr.effect u i).value r) ∧
      (Instr.effect s i).flags = (Instr.effect u i).flags ∧
      (Instr.effect s i).stores = (Instr.effect u i).stores ∧
      (Instr.effect s i).event = (Instr.effect u i).event := by
    by_cases hlt : i = .hlt
    · subst hlt
      exact ⟨fun r hr => by rw [List.mem_singleton.1 hr]; rfl, rfl, rfl, rfl⟩
    · rw [effect_eq_of_reads hlt ⟨hmem, hparams, htick⟩ regs flags]
      exact ⟨fun _ _ => rfl, rfl, rfl, rfl⟩
  obtain ⟨values, newFlags, stores, event⟩ := agree
  refine ⟨_, _, exec_eq_apply i s, exec_eq_apply i u, fun r hr => ?reg, fun k marked => ?flag, ?mem,
    (Instr.effect s i).event.toList, Effect.apply_portLog _ s, event ▸ Effect.apply_portLog _ u⟩
  case reg =>
    have notHltPc : i = .hlt → r ≠ .pc := by
      rintro rfl rfl
      exact absurd hr (by decide)
    have written : ((Instr.effect s i).value r).isSome = true := by
      rw [effect_value_isSome i s r notHltPc]
      exact decide_eq_true hr
    obtain ⟨n, hn⟩ := Option.isSome_iff_exists.1 written
    rw [Effect.apply_get, Effect.apply_get, ← values r hr, hn, Option.getD_some, Option.getD_some]
  case flag =>
    have written : ((Instr.effect s i).flags k).isSome = true := by
      have described := flagMark_describes i s k
      cases m : flagMark i k with
      | unchanged => exact absurd m marked
      | updated => rw [m] at described; exact described
      | zero | one => rw [m] at described; rw [show _ = _ from described]; rfl
    obtain ⟨v, hv⟩ := Option.isSome_iff_exists.1 written
    rw [Effect.apply_flags_get, Effect.apply_flags_get, ← newFlags, hv, Option.getD_some, Option.getD_some]
  case mem =>
    rw [Effect.apply_mem, Effect.apply_mem, ← stores]
    exact State.storeAll_mem_congr hmem hparams _

end Sys2Proof.Machine
end

section
/-! The step (60_exceptions.md R331 to R345): what it does in each of its cases, the run of an encoded
instruction, interrupts, the halt state, and what every step keeps. -/

namespace Sys2Proof.Machine

/-! ### The cases of a step -/

/-- R339: an accepted request enters its handler. -/
theorem step_of_accepted {s : State} {v : Byte} (h : s.acceptedRequest = some v) :
    step s = .next ((s.hwInterruptEntry v).toNextBoundary hwInterruptCycles) := by
  simp only [step, boundary, h]

/-- R341: a halted processor without an accepted request passes to the next boundary. -/
theorem step_of_halted {s : State} (h : s.acceptedRequest = none) (halted : s.halted = true) :
    step s = .next (s.toNextBoundary 0) := by
  simp only [step, boundary, h, halted, if_true]

/-- R332: otherwise the instruction at PC executes. -/
theorem step_of_fetch {s : State} {i : Instr} (h : s.fetches) (hi : s.fetch = some i) :
    step s = endInstr (Instr.cycles s.flags i) (exec i (s.pastInstr i)) := by
  simp only [step, boundary, h.1, h.2, hi, Bool.false_eq_true, if_false]

/-- R119: a first byte that selects no instruction is the model's fault. -/
theorem step_of_no_instr {s : State} (h : s.fetches) (hi : s.fetch = none) :
    step s = .fault (.illegalOpcode (s.readByte s.pc)) := by
  simp only [step, boundary, h.1, h.2, hi, Bool.false_eq_true, if_false]

/-- All that a step can do when it answers a next state, with the instruction's effect written out. -/
theorem step_cases {s t : State} (h : step s = .next t) :
    (∃ v, s.acceptedRequest = some v ∧ t = (s.hwInterruptEntry v).toNextBoundary hwInterruptCycles) ∨
    (s.acceptedRequest = none ∧ s.halted = true ∧ t = s.toNextBoundary 0) ∨
    (∃ i, s.acceptedRequest = none ∧ s.halted = false ∧ s.fetch = some i ∧
      t = ((Instr.effect (s.pastInstr i) i).apply (s.pastInstr i)).toNextBoundary
        (Instr.cycles s.flags i)) := by
  obtain entry | halted | ⟨i, u, noRequest, running, fetched, hu, ht⟩ := boundary_cases h
  · exact .inl entry
  · exact .inr (.inl halted)
  · exact .inr (.inr ⟨i, noRequest, running, fetched, eq_apply_of_exec hu ▸ ht⟩)

/-- Settles O4: the decoder refuses by the list, and a refused fetch is the fault. -/
theorem undefinedFirstBytesFault : Obligations.UndefinedFirstBytesFault := by
  unfold Obligations.UndefinedFirstBytesFault
  exact ⟨decodeBytes_eq_none_iff, fun s h undefined =>
    step_of_no_instr h ((decodeBytes_eq_none_iff _ _ _).2 undefined)⟩

/-- Settles O16: the passage to the next boundary, case by case of the meaning's answer. -/
theorem stepRunsDecodedInstruction : Obligations.StepRunsDecodedInstruction := by
  unfold Obligations.StepRunsDecodedInstruction
  intro s i h hi
  rw [step_of_fetch h hi]
  rfl

/-! ### Encoded instructions -/

/-- Bytes that stand one after another are what the three bytes fetched begin with. -/
theorem prefix_three_of_getElem {code : List Byte} {f : Nat → Byte} (three : code.length ≤ 3)
    (h : ∀ k (hk : k < code.length), f k = code[k]) : code <+: [f 0, f 1, f 2] := by
  rw [List.prefix_iff_eq_take]
  refine List.ext_getElem (by simpa using three) fun k hk _ => ?_
  have below : k = 0 ∨ k = 1 ∨ k = 2 := by omega
  obtain rfl | rfl | rfl := below <;> simp [← h _ hk]

/-- The bytes stand at an address and after it, wrapping (R90, D3). -/
def State.BytesAt (s : State) (p : Word) (bytes : List Byte) : Prop :=
  ∀ k (h : k < bytes.length), s.readByte (p + BitVec.ofNat 16 k) = bytes[k]

/-- The encoding of an instruction stands at PC. -/
abbrev State.HasCode (s : State) (i : Instr) : Prop := s.BytesAt s.pc (encode i)

/-- R90: an instruction whose encoding stands at PC is fetched. -/
theorem State.fetch_of_hasCode {s : State} {i : Instr} (h : s.HasCode i) : s.fetch = some i := by
  have atPc := prefix_three_of_getElem (f := fun k => s.readByte (s.pc + BitVec.ofNat 16 k))
    ((length_encode i).trans_le (length_le_three i)) h
  simp only [BitVec.add_zero] at atPc
  exact (decodeBytes_eq_some_iff _ _ _ i).2 atPc

/-- R90: the step of an instruction whose encoding stands at PC, with its next state. -/
theorem step_of_hasCode {s t : State} {i : Instr} (h : s.fetches) (code : s.HasCode i)
    (ht : exec i (s.pastInstr i) = .next t) :
    step s = .next (t.toNextBoundary (Instr.cycles s.flags i)) := by
  rw [step_of_fetch h (State.fetch_of_hasCode code), ht]
  rfl

/-- Settles O17: the encoded instruction is fetched, and every meaning answers a next state. -/
theorem encodedInstructionRuns : Obligations.EncodedInstructionRuns := by
  unfold Obligations.EncodedInstructionRuns
  intro s i h code
  rw [length_encode]
  exact ⟨_, exec_eq_apply i (s.pastInstr i), step_of_hasCode h code (exec_eq_apply i _)⟩

/-! ### Placed instructions -/

/-- An address is not absent when no absent range covers it. -/
theorem regionKind_ne_absent {map : List Region} {a : Word}
    (h : ∀ r ∈ map, r.kind = .absent → Region.covers r a = false) : regionKind map a ≠ some .absent := by
  intro absent
  obtain ⟨r, found, kind⟩ := Option.map_eq_some_iff.1 absent
  have covered := List.find?_some found
  rw [h r (List.mem_of_find?_eq_some found) kind] at covered
  exact Bool.noConfusion covered

/-- No absent range is left over the three bytes placed (log 31). -/
theorem State.placeBytes_not_absent (s : State) (b0 b1 b2 : Byte) {p : Word}
    (hp : p = s.pc ∨ p = s.pc + 1 ∨ p = s.pc + 2) : (s.placeBytes b0 b1 b2).isAbsent p = false := by
  refine decide_eq_false (regionKind_ne_absent fun r hr kind => ?_)
  have unblocked := (List.mem_filter.1 hr).2
  simp only [kind, decide_true, Bool.true_and, Bool.not_eq_true', Bool.or_eq_false_iff] at unblocked
  obtain ⟨⟨free0, free1⟩, free2⟩ := unblocked
  obtain rfl | rfl | rfl := hp
  · exact free0
  · exact free1
  · exact free2

/-- The three bytes placed are those the next fetch reads. -/
theorem State.placeBytes_fetch (s : State) (b0 b1 b2 : Byte) :
    (s.placeBytes b0 b1 b2).fetch = decodeBytes b0 b1 b2 := by
  have apart01 : s.pc.toNat ≠ (s.pc + 1).toNat := by bv_omega
  have apart02 : s.pc.toNat ≠ (s.pc + 2).toNat := by bv_omega
  have apart12 : (s.pc + 1).toNat ≠ (s.pc + 2).toNat := by bv_omega
  have read {p : Word} (hp : p = s.pc ∨ p = s.pc + 1 ∨ p = s.pc + 2) :
      (s.placeBytes b0 b1 b2).readByte p =
        (Memory.read? (Memory.write (Memory.write (Memory.write s.mem s.pc.toNat b0) (s.pc + 1).toNat b1)
          (s.pc + 2).toNat b2) p.toNat).getD (Config.unspecifiedByte p) := by
    simp only [State.readByte, s.placeBytes_not_absent b0 b1 b2 hp, Bool.false_eq_true, if_false]
    rfl
  have pc : (s.placeBytes b0 b1 b2).pc = s.pc := rfl
  rw [State.fetch, pc, read (.inl rfl), read (.inr (.inl rfl)), read (.inr (.inr rfl)),
    Memory.read?_write_other _ _ apart02, Memory.read?_write_other _ _ apart01, Memory.read?_write_same,
    Memory.read?_write_other _ _ apart12, Memory.read?_write_same, Memory.read?_write_same]
  rfl

/-- Nothing stands in the way of the fetch of a placed instruction. -/
theorem State.placeBytes_fetches (s : State) (b0 b1 b2 : Byte) : (s.placeBytes b0 b1 b2).fetches := by
  refine ⟨State.acceptedRequest_eq_none.2 ?_, rfl⟩
  cases enabled : s.flags.fi with
  | false => exact .inl enabled
  | true => exact .inr (if_pos enabled)

/-- Settles O9: the word's bytes are placed and fetched. -/
theorem placedWordIsFetched : Obligations.PlacedWordIsFetched := by
  unfold Obligations.PlacedWordIsFetched
  exact fun s nbits w => ⟨s.placeBytes_fetches _ _ _, s.placeBytes_fetch _ _ _⟩

/-! ### Interrupts -/

/-- R317: the cycles of an interrupt entry. -/
theorem hwInterruptCycles_eq : hwInterruptCycles = 22 := rfl

/-- R339, D9: F.I after the entry. -/
theorem State.hwInterruptEntry_flags_eq (s : State) (v : Byte) :
    (s.hwInterruptEntry v).flags = { s.flags with fi := s.flags.fi && !s.params.hwintClearsFi } := by
  rw [State.hwInterruptEntry_flags]
  cases s.params.hwintClearsFi <;> simp

/-- Settles O18: the step is the entry, which is the transfer through the vector table. -/
theorem interruptEntry : Obligations.InterruptEntry := by
  unfold Obligations.InterruptEntry
  intro s v enabled request
  refine ⟨_, step_of_accepted (State.acceptedRequest_eq_some.2 ⟨enabled, request⟩), s.pushed_takeVector v,
    s.takeVector_pc_eq v, ?frame⟩
  have flags := s.hwInterruptEntry_flags_eq v
  rw [enabled, Bool.true_and] at flags
  rw [← flags]
  rfl

/-- An effect does not depend on the request presented. -/
theorem effect_irq (s : State) (r : Option Byte) (i : Instr) :
    Instr.effect { s with irq := r } i = Instr.effect s i := by
  cases i <;> rfl

/-- The request presented at a boundary is gone at the next one. -/
theorem Effect.apply_irq_toNextBoundary (e : Effect) (s : State) (r : Option Byte) (n : Nat) :
    (e.apply { s with irq := r }).toNextBoundary n = (e.apply s).toNextBoundary n := by
  have sameMemory := State.storeAll_mem_congr (s := { s with irq := r }) (u := s) rfl rfl e.stores
  simp only [State.toNextBoundary, Effect.apply, sameMemory]

/-- Settles O19: with F.I = 0 no request is accepted, and no other part of the step looks at it. -/
theorem disabledRequestIsIgnored : Obligations.DisabledRequestIsIgnored := by
  unfold Obligations.DisabledRequestIsIgnored
  intro s r disabled
  have noRequest : s.acceptedRequest = none := State.acceptedRequest_eq_none.2 (.inl disabled)
  have noRequest' : ({ s with irq := r } : State).acceptedRequest = none :=
    State.acceptedRequest_eq_none.2 (.inl disabled)
  have fetch : ({ s with irq := r } : State).fetch = s.fetch := rfl
  by_cases halted : s.halted = true
  · rw [step_of_halted noRequest halted, step_of_halted noRequest' halted]
    rfl
  · rw [Bool.not_eq_true] at halted
    cases fetched : s.fetch with
    | none =>
      rw [step_of_no_instr ⟨noRequest, halted⟩ fetched,
        step_of_no_instr ⟨noRequest', halted⟩ (fetch.trans fetched)]
      rfl
    | some i =>
      have past : ({ s with irq := r } : State).pastInstr i = { s.pastInstr i with irq := r } := rfl
      rw [step_of_fetch ⟨noRequest, halted⟩ fetched,
        step_of_fetch ⟨noRequest', halted⟩ (fetch.trans fetched), past, exec_eq_apply, exec_eq_apply, effect_irq]
      exact congrArg Host.Outcome.next (Effect.apply_irq_toNextBoundary _ _ r _)

/-! ### The halt state -/

/-- The passage to the next boundary changes nothing the spec gives the machine. -/
theorem State.sameMachine_toNextBoundary (s : State) (n : Nat) : s.sameMachine (s.toNextBoundary n) :=
  ⟨rfl, rfl, rfl, rfl, rfl, rfl, rfl, rfl, rfl, rfl, rfl⟩

/-- States that agree in everything the spec gives the machine are chained. -/
theorem State.sameMachine.trans {s t u : State} (h : s.sameMachine t) (k : t.sameMachine u) :
    s.sameMachine u := by
  obtain ⟨a, b, c, flags, x, sp, pc, halted, mem, params, portLog⟩ := h
  obtain ⟨a', b', c', flags', x', sp', pc', halted', mem', params', portLog'⟩ := k
  exact ⟨a'.trans a, b'.trans b, c'.trans c, flags'.trans flags, x'.trans x, sp'.trans sp, pc'.trans pc,
    halted'.trans halted, mem'.trans mem, params'.trans params, portLog'.trans portLog⟩

/-- A state agrees with itself. -/
theorem State.sameMachine.refl (s : State) : s.sameMachine s :=
  ⟨rfl, rfl, rfl, rfl, rfl, rfl, rfl, rfl, rfl, rfl, rfl⟩

/-- They give the same result of a run (R374). -/
theorem State.sameMachine.result_eq {s t : State} (h : s.sameMachine t) : t.result = s.result := by
  obtain ⟨a, b, c, flags, x, sp, pc, -, mem, -, portLog⟩ := h
  simp only [State.result, a, b, c, flags, x, sp, pc, mem, portLog]

/-- D24: at the end of a run the step is the passage to the next boundary. -/
theorem step_of_ended {s : State} (h : s.ended) : step s = .next (s.toNextBoundary 0) :=
  step_of_halted (State.acceptedRequest_of_ended h) h.1

/-- Settles O20: the end of a run and the machine at it are kept along the run. -/
theorem haltedProcessorKeepsItsState : Obligations.HaltedProcessorKeepsItsState := by
  unfold Obligations.HaltedProcessorKeepsItsState
  refine ⟨fun s halted noRequest =>
      ⟨_, step_of_halted noRequest halted, s.sameMachine_toNextBoundary 0, rfl⟩,
    fun s t ended reaches => ?_⟩
  have keep : ∀ u w, (s.sameMachine u ∧ u.ended) → step u = .next w → s.sameMachine w ∧ w.ended := by
    rintro u w ⟨same, ended⟩ next
    rw [step_of_ended ended] at next
    obtain rfl := Host.Outcome.next.inj next
    exact ⟨same.trans (u.sameMachine_toNextBoundary 0), State.ended_toNextBoundary ended 0⟩
  obtain ⟨same, ended⟩ := reaches.invariant keep ⟨State.sameMachine.refl s, ended⟩
  exact ⟨same, same.result_eq, ended, _, step_of_ended ended⟩

/-- Settles O21: the entry ends the halt state, a halted step keeps it, and of the effects that of `HLT` alone
writes it. -/
theorem haltChangesOnlyByHltAndInterrupt : Obligations.HaltChangesOnlyByHltAndInterrupt := by
  unfold Obligations.HaltChangesOnlyByHltAndInterrupt
  intro s t next
  obtain ⟨v, accepted, rfl⟩ | ⟨noRequest, halted, rfl⟩ | ⟨i, noRequest, running, fetched, rfl⟩ :=
    step_cases next
  · obtain ⟨enabled, request⟩ := State.acceptedRequest_eq_some.1 accepted
    exact ⟨fun _ halted => absurd halted Bool.false_ne_true, fun _ _ => ⟨v, enabled, request, rfl⟩⟩
  · exact ⟨fun running => absurd (halted.symm.trans running) Bool.noConfusion,
      fun _ running => absurd (halted.symm.trans running) Bool.noConfusion⟩
  · refine ⟨fun _ halts => ⟨noRequest, ?_⟩, fun halted => absurd (halted.symm.trans running) Bool.noConfusion⟩
    by_cases hlt : i = .hlt
    · rw [fetched, hlt]
    · have kept : ((Instr.effect (s.pastInstr i) i).apply (s.pastInstr i)).halted = s.halted := by
        simp only [Effect.apply, effect_halted i _ hlt, Option.getD_none, State.pastInstr_halted]
      rw [State.toNextBoundary_halted, kept, running] at halts
      exact absurd halts Bool.false_ne_true

/-! ### What every step keeps -/

/-- Settles O13: an entry pushes, an effect stores, and both keep the canonical form. -/
theorem stepKeepsMemoryCanonical : Obligations.StepKeepsMemoryCanonical := by
  unfold Obligations.StepKeepsMemoryCanonical
  intro s t wf next
  obtain ⟨v, _, rfl⟩ | ⟨_, _, rfl⟩ | ⟨i, _, _, _, rfl⟩ := step_cases next
  · exact State.takeVector_wf v wf
  · exact wf
  · exact State.storeAll_wf (s := s.pastInstr i) wf _

/-- R382: no `op8` adds more than 11 cycles. -/
theorem op8_extraCycles_le (q : Op8) : Op8.extraCycles q ≤ 11 := by
  rcases q with (_ | _ | _) | _ | _ <;> exact Nat.le_of_ble_eq_true rfl

/-- R384: no instruction takes more than 30 cycles. -/
theorem cycles_le_thirty (f : Flags) (i : Instr) : Instr.cycles f i ≤ 30 := by
  cases i
  case adc q | add q | and q | cmp q | or q | sbb q | sub q | xor q | movReg8 _ q =>
    exact (Nat.add_le_add_left (op8_extraCycles_le q) 7).trans (by decide)
  case movMem8 m _ => exact (Nat.add_le_add_left (op8_extraCycles_le (.mem m)) 7).trans (by decide)
  case movReg16 _ q => cases q <;> exact Nat.le_of_ble_eq_true rfl
  case jc | jnc | jo | jno | jp | jnp | js | jns | jz | jnz =>
    simp only [Instr.cycles]
    split <;> decide
  all_goals exact Nat.le_of_ble_eq_true rfl

/-- Settles O23: the fields in each of the three cases of a step. -/
theorem stepKeepsTheModelsOwnFields : Obligations.StepKeepsTheModelsOwnFields := by
  unfold Obligations.StepKeepsTheModelsOwnFields
  intro s t next
  obtain ⟨v, _, rfl⟩ | ⟨_, _, rfl⟩ | ⟨i, _, _, _, rfl⟩ := step_cases next
  · exact ⟨rfl, rfl, rfl, ⟨[], (List.append_nil _).symm, Nat.zero_le _⟩, Nat.le_add_right _ _,
      Nat.add_le_add_left (by rw [hwInterruptCycles_eq]; decide) _⟩
  · exact ⟨rfl, rfl, rfl, ⟨[], (List.append_nil _).symm, Nat.zero_le _⟩, Nat.le_add_right _ _,
      Nat.add_le_add_left (Nat.zero_le _) _⟩
  · refine ⟨rfl, rfl, rfl, ⟨_, Effect.apply_portLog _ _, ?_⟩, Nat.le_add_right _ _,
      Nat.add_le_add_left (cycles_le_thirty _ i) _⟩
    exact Option.length_toList_le

/-! ### Reset -/

/-- Settles O24: the reset event writes PC, the halt state and memory, and the first step looks at the request
that was presented before. -/
theorem resetEvent : Obligations.ResetEvent := by
  unfold Obligations.ResetEvent
  exact fun u image => ⟨rfl, rfl, rfl, rfl, fun h => h.1, fun h => ⟨h, rfl⟩⟩

/-- Settles O25: the fields of the state, read off. -/
theorem resetStateOfTheModel : Obligations.ResetStateOfTheModel := by
  unfold Obligations.ResetStateOfTheModel
  exact ⟨rfl, rfl, rfl, rfl, rfl, rfl, rfl, rfl, rfl, rfl, rfl⟩

/-- Settles O14: the memory lists no cell. -/
theorem resetMemoryIsCanonical : Obligations.ResetMemoryIsCanonical := by
  unfold Obligations.ResetMemoryIsCanonical
  rfl

end Sys2Proof.Machine
end

section
/-! Conditional jumps (43_control_transfer.md R230 to R240) and the displacement an assembler computes for them
(30_encoding.md R123); register control (46_alu_microops.md R290). -/

namespace Sys2Proof

/-! ### Displacements -/

/-- R8: the low byte of a sign-extended byte is the byte. -/
theorem lo_signExtend (b : Byte) : lo (b.signExtend 16) = b := by
  have small : b.toNat < 256 := b.isLt
  refine BitVec.eq_of_toNat_eq ?_
  rw [lo, BitVec.toNat_ofNat, BitVec.toNat_signExtend, BitVec.toNat_setWidth]
  split <;> omega

/-- R8: a word between -128 and 127 is the sign extension of its low byte. -/
theorem signExtend_lo {d : Word} (low : -128 ≤ d.toInt) (high : d.toInt ≤ 127) :
    (lo d).signExtend 16 = d := by
  apply BitVec.eq_of_toInt_eq
  have bound : d.toNat < 65536 := d.isLt
  have loNat : (lo d).toNat = d.toNat % 256 := by simp [lo]
  have signed : d.toInt = d.toNat ∨ d.toInt = d.toNat - 65536 := by
    rw [BitVec.toInt_eq_toNat_cond]
    split <;> simp
  rw [BitVec.toInt_signExtend_of_le (by decide)]
  obtain ⟨_, loInt⟩ | ⟨_, loInt⟩ := Machine.toInt_eq_low_bits (lo d) <;> omega

/-- R123: the displacements in reach are the words that are sign extensions. -/
theorem in_reach_iff (d : Word) :
    (-128 ≤ d.toInt ∧ d.toInt ≤ 127) ↔ ∃ rel : Byte, rel.signExtend 16 = d := by
  constructor
  · rintro ⟨low, high⟩
    exact ⟨_, signExtend_lo low high⟩
  · rintro ⟨rel, rfl⟩
    rw [BitVec.toInt_signExtend_of_le (by decide)]
    have low := rel.le_toInt
    have high := rel.toInt_lt
    omega

/-- R123: when the assembler's check accepts a target. -/
theorem jcondReaches_iff (p target : Word) :
    jcondReaches p target = true ↔ ∃ rel : Byte, p + 2 + rel.signExtend 16 = target := by
  simp only [← eq_sub_iff_add_eq', ← in_reach_iff, jcondReaches, Bool.and_eq_true, decide_eq_true_eq]

/-- Settles O8: in reach, the low byte of the distance is the only displacement that extends to it. -/
theorem displacementReachesTarget : Obligations.DisplacementReachesTarget := by
  unfold Obligations.DisplacementReachesTarget
  refine fun p target => ⟨fun rel => ?_, jcondReaches_iff p target⟩
  rw [← eq_sub_iff_add_eq', jcondRel8, Option.ite_none_right_eq_some, Option.some.injEq]
  constructor
  · rintro ⟨reaches, rfl⟩
    obtain ⟨rel, hrel⟩ := (jcondReaches_iff p target).1 reaches
    rw [← eq_sub_iff_add_eq'.2 hrel, lo_signExtend]
  · intro hrel
    exact ⟨(jcondReaches_iff p target).2 ⟨rel, eq_sub_iff_add_eq'.1 hrel⟩,
      by rw [← hrel, lo_signExtend]⟩

namespace Machine

/-! ### Conditional jumps -/

/-- R230 to R239: the ten conditional jumps with a displacement. -/
def conditionalJumpsBy (rel : Byte) : List Instr :=
  [.jc rel, .jnc rel, .jo rel, .jno rel, .jp rel, .jnp rel, .js rel, .jns rel, .jz rel, .jnz rel]

/-- R240: each is two bytes long and adds its displacement when its flag test holds. -/
theorem exec_conditionalJump (rel : Byte) : ∀ i ∈ conditionalJumpsBy rel,
    i.length = 2 ∧ ∀ s : State, exec i s = .next (s.jumpIf (Instr.taken s.flags i) rel) := by
  simp only [conditionalJumpsBy, List.forall_mem_cons]
  refine ⟨?_, ?_, ?_, ?_, ?_, ?_, ?_, ?_, ?_, ?_, List.forall_mem_nil _⟩ <;> exact ⟨rfl, fun _ => rfl⟩

/-- Settles O47: the form and the flag test of each of the ten, and the meaning they share. -/
theorem conditionalJumps : Obligations.ConditionalJumps := by
  unfold Obligations.ConditionalJumps
  intro s rel
  have meaning (cond : Bool) : Host.Outcome.next (s.jumpIf cond rel) =
      (.next { s with pc := if cond then s.pc + rel.signExtend 16 else s.pc } : Result) :=
    congrArg Host.Outcome.next (s.jumpIf_eq cond rel)
  simp only [List.forall_mem_cons]
  refine ⟨?_, ?_, ?_, ?_, ?_, ?_, ?_, ?_, ?_, ?_, List.forall_mem_nil _⟩ <;> exact ⟨rfl, meaning _, rfl⟩

/-- Settles O48: the jump is fetched, and its displacement leads from the next instruction to the target. -/
theorem assembledJumpGoesToItsTarget : Obligations.AssembledJumpGoesToItsTarget := by
  unfold Obligations.AssembledJumpGoesToItsTarget
  intro s target rel i fetches jump assembled code
  obtain ⟨length, meaning⟩ := exec_conditionalJump rel i jump
  have reach : s.pc + 2 + rel.signExtend 16 = target :=
    ((displacementReachesTarget s.pc target).1 rel).1 assembled
  refine ⟨_, step_of_hasCode fetches code (meaning (s.pastInstr i)), ?_⟩
  rw [State.toNextBoundary_pc, State.jumpIf_pc, State.pastInstr_pc, State.pastInstr_flags, length, ← reach]
  rfl

/-! ### Register control -/

/-- Settles O57: the table of the register control, row by row. -/
theorem registerControl : Obligations.RegisterControl := by
  unfold Obligations.RegisterControl
  exact fun _ _ _ _ => ⟨rfl, rfl, rfl, rfl⟩

end Machine
end Sys2Proof
end

section
/-! Differences, counts and shifts with their flags (10_state.md R39, 41_alu_binary.md section 3,
42_alu_unary.md), and the ALU functions the instructions use (46_alu_microops.md section 2). -/

namespace Sys2Proof.Machine

/-! ### Differences -/

/-- R29: the borrow out of bit 6 differs from the borrow out of bit 7 exactly when the signed difference leaves
-128..127. -/
theorem borrows_differ_iff_overflows (a b : Byte) (bin : Bool) :
    (decide (((a.toNat % 128 : Nat) : Int) - ((b.toNat % 128 : Nat) : Int) - (bin.toNat : Int) < 0) ^^
        decide ((a.toNat : Int) - (b.toNat : Int) - (bin.toNat : Int) < 0)) =
      overflows (a.toInt - b.toInt - bin.toNat) := by
  have borrowIn : bin.toNat ≤ 1 := Bool.toNat_le bin
  have boundA : a.toNat < 256 := a.isLt
  have boundB : b.toNat < 256 := b.isLt
  rw [Bool.eq_iff_iff, Bool.xor_iff_ne, ne_eq, decide_eq_decide, overflows, decide_eq_true_iff]
  obtain ⟨signA, intA⟩ | ⟨signA, intA⟩ := toInt_eq_low_bits a <;>
    obtain ⟨signB, intB⟩ | ⟨signB, intB⟩ := toInt_eq_low_bits b <;>
    rw [intA, intB] <;> omega

/-- The difference of the unsigned values, narrowed to 8 bits, is the difference modulo 256. -/
theorem ofInt_difference (a b : Byte) (bin : Bool) :
    BitVec.ofInt 8 ((a.toNat : Int) - (b.toNat : Int) - (bin.toNat : Int)) =
      a - b - (if bin then 1 else 0) := by
  cases bin <;> simp [sub_eq_add_neg, BitVec.ofInt_add, BitVec.ofInt_neg]

/-- R39 in the terms of the statements: the difference modulo 256, C as the unsigned borrow and O as the signed
overflow. -/
theorem sub8_eq_overflows (a b : Byte) (bin : Bool) :
    sub8 a b bin =
      withZsp (a - b - (if bin then 1 else 0)) (decide (a.toNat < b.toNat + bin.toNat))
        (overflows (a.toInt - b.toInt - bin.toNat)) := by
  have borrow : decide ((a.toNat : Int) - (b.toNat : Int) - (bin.toNat : Int) < 0) =
      decide (a.toNat < b.toNat + bin.toNat) := by
    rw [decide_eq_decide]
    omega
  rw [← ofInt_difference, ← borrow, ← borrows_differ_iff_overflows]
  rfl

/-- Without a borrow in, `sub8` subtracts its second operand. -/
theorem sub8_false (a b : Byte) :
    sub8 a b false =
      withZsp (a - b) (decide (a.toNat < b.toNat)) (overflows (a.toInt - b.toInt)) := by
  simpa using sub8_eq_overflows a b false

/-- Settles O38: the meaning of `SBB` through the difference of `sub8`. -/
theorem sbbResult : Obligations.SbbResult := by
  unfold Obligations.SbbResult
  intro s src
  refine ⟨rfl, ?_⟩
  rw [exec_sbb, sub8_eq_overflows, State.setAlu_withZsp]

/-- Settles O37: the meaning of `SUB` through the difference of `sub8` without a borrow in. -/
theorem subResult : Obligations.SubResult := by
  unfold Obligations.SubResult
  intro s src
  refine ⟨rfl, ?_⟩
  rw [exec_sub, sub8_false, State.setAlu_withZsp]

/-- R164: sign and overflow of a difference together tell the signed order. -/
theorem sub_msb_xor_overflows (a b : Byte) :
    ((a - b).msb ^^ overflows (a.toInt - b.toInt)) = decide (a.toInt < b.toInt) := by
  have lowA := a.le_toInt
  have highA := a.toInt_lt
  have lowB := b.le_toInt
  have highB := b.toInt_lt
  rw [BitVec.msb_eq_toInt, BitVec.toInt_sub, Int.bmod_def, overflows, Bool.eq_iff_iff, Bool.xor_iff_ne,
    ne_eq, decide_eq_decide, decide_eq_true_iff]
  split <;> omega

/-- Settles O39: the flags are those of `SUB`, read as orders of the operands. -/
theorem cmpOrdersOperands : Obligations.CmpOrdersOperands := by
  unfold Obligations.CmpOrdersOperands
  intro s src
  refine ⟨_, _, exec_cmp src s, exec_sub src s, rfl, ?_⟩
  rw [sub8_false, Flags.setCzosp_withZsp]
  refine ⟨?zero, decide_eq_true_iff, ?signed⟩
  case zero => exact decide_eq_true_iff.trans sub_eq_zero
  case signed =>
    rw [← decide_eq_true_iff (p := s.a.toInt < _), ← sub_msb_xor_overflows]
    rfl

/-! ### Counts -/

/-- R33: a count with its overflow given sets Z, S, P and O, and keeps C and I. -/
theorem Flags.setZosp_withZsp (f : Flags) (r : Byte) (c o : Bool) :
    f.setZosp (withZsp r c o) = flagsOf f r f.fc o := rfl

/-- D14: counting up overflows at 0x7F alone. -/
theorem add_one_overflows (b : Byte) : overflows (b.toInt + (1 : Byte).toInt) = decide (b = 0x7F) := by
  have value : b = 0x7F ↔ b.toNat = 0x7F := BitVec.toNat_inj.symm
  have one : (1 : Byte).toInt = 1 := rfl
  have small : b.toNat < 256 := b.isLt
  rw [overflows, decide_eq_decide, value, one, BitVec.toInt_eq_toNat_cond]
  omega

/-- Counting up is an addition of 1. -/
theorem add8_one (b : Byte) :
    add8 b 1 false = withZsp (b + 1) (decide (256 ≤ b.toNat + 1)) (decide (b = 0x7F)) := by
  rw [add8_false, add_one_overflows]
  rfl

/-- D14: counting down overflows at 0x80 alone. -/
theorem sub_one_overflows (b : Byte) : overflows (b.toInt - (1 : Byte).toInt) = decide (b = 0x80) := by
  have value : b = 0x80 ↔ b.toNat = 0x80 := BitVec.toNat_inj.symm
  have one : (1 : Byte).toInt = 1 := rfl
  have small : b.toNat < 256 := b.isLt
  rw [overflows, decide_eq_decide, value, one, BitVec.toInt_eq_toNat_cond]
  omega

/-- Counting down is a subtraction of 1. -/
theorem sub8_one (b : Byte) :
    sub8 b 1 false = withZsp (b - 1) (decide (b.toNat < 1)) (decide (b = 0x80)) := by
  rw [sub8_false, sub_one_overflows]
  rfl

/-- An 8-bit register takes a count, and the flags but C and I with it. -/
def State.setCount (s : State) (r : Reg8) (u : AluOut) : State :=
  { s.setReg8 r u.r with flags := s.flags.setZosp u }

/-- R198. -/
theorem exec_incReg8 (r : Reg8) (s : State) :
    exec (.incReg8 r) s = .next (s.setCount r (add8 (s.reg8 r) 1 false)) := rfl

/-- R199. -/
theorem exec_decReg8 (r : Reg8) (s : State) :
    exec (.decReg8 r) s = .next (s.setCount r (sub8 (s.reg8 r) 1 false)) := rfl

/-- The register counted takes the result. -/
theorem State.reg8_setCount_same (s : State) (r : Reg8) (u : AluOut) : (s.setCount r u).reg8 r = u.r :=
  State.reg8_setReg8_same s r u.r

/-- The other registers stay. -/
theorem State.reg8_setCount_other (s : State) {r q : Reg8} (u : AluOut) (h : q ≠ r) :
    (s.setCount r u).reg8 q = s.reg8 q :=
  State.reg8_setReg8_other s u.r h

/-- A count changes the 8-bit registers and the flags alone. -/
theorem State.setCount_frame (s : State) (r : Reg8) (u : AluOut) :
    s.setCount r u = { s with
      a := (s.setCount r u).a, b := (s.setCount r u).b, c := (s.setCount r u).c
      flags := (s.setCount r u).flags } := by
  cases r <;> rfl

/-- Settles O41: the two counts with their overflow, and the frame of a count. -/
theorem countReg8 : Obligations.CountReg8 := by
  unfold Obligations.CountReg8
  intro s r
  refine ⟨⟨rfl, fun _ => rfl⟩, ⟨rfl, fun _ => rfl⟩, _, _, exec_incReg8 r s, exec_decReg8 r s, ?_⟩
  rw [add8_one, sub8_one]
  exact ⟨State.reg8_setCount_same s r _, State.reg8_setCount_same s r _,
    fun q other => ⟨State.reg8_setCount_other s _ other, State.reg8_setCount_other s _ other⟩,
    s.flags.setZosp_withZsp _ _ _, s.flags.setZosp_withZsp _ _ _, State.setCount_frame s r _,
    State.setCount_frame s r _⟩

/-- R200. -/
theorem exec_incReg16 (r : Reg16) (s : State) :
    exec (.incReg16 r) s = .next (s.setReg16 r (s.reg16 r + 1)) := rfl

/-- R201. -/
theorem exec_decReg16 (r : Reg16) (s : State) :
    exec (.decReg16 r) s = .next (s.setReg16 r (s.reg16 r - 1)) := rfl

/-- A pair as a number. -/
theorem toNat_concat (h l : Byte) : (concat h l).toNat = 256 * h.toNat + l.toNat := by
  have boundH : h.toNat < 256 := h.isLt
  have boundL : l.toNat < 256 := l.isLt
  simp only [concat, BitVec.toNat_ofNat]
  omega

/-- D3: a pair counts up through its low half, with a carry at 0xFF. -/
theorem concat_add_one (h l : Byte) :
    concat h l + 1 = concat (if l = 0xFF then h + 1 else h) (l + 1) := by
  have boundH : h.toNat < 256 := h.isLt
  have boundL : l.toNat < 256 := l.isLt
  have one8 : (1 : Byte).toNat = 1 := rfl
  have one16 : (1 : Word).toNat = 1 := rfl
  apply BitVec.eq_of_toNat_eq
  rw [toNat_concat, BitVec.toNat_add, toNat_concat, one16]
  split
  · next full =>
    have top : l.toNat = 255 := congrArg BitVec.toNat full
    rw [BitVec.toNat_add, BitVec.toNat_add, one8, top]
    omega
  · next notFull =>
    have below : l.toNat ≠ 255 := fun e => notFull (BitVec.eq_of_toNat_eq e)
    rw [BitVec.toNat_add, one8]
    omega

/-- D3: a pair counts down through its low half, with a borrow at 0. -/
theorem concat_sub_one (h l : Byte) :
    concat h l - 1 = concat (if l = 0 then h - 1 else h) (l - 1) := by
  rw [sub_eq_iff_eq_add, concat_add_one]
  by_cases zero : l = 0
  · subst zero
    simp
  · have notFull : l - 1 ≠ 0xFF := fun e => zero (by rw [sub_eq_iff_eq_add.1 e]; rfl)
    rw [if_neg notFull, if_neg zero, sub_add_cancel]

/-- Settles O42: X and SP count whole; BC counts as a pair, whose halves come back. -/
theorem countReg16 : Obligations.CountReg16 := by
  unfold Obligations.CountReg16
  refine fun s => ⟨fun r => ⟨⟨rfl, fun _ => rfl⟩, ⟨rfl, fun _ => rfl⟩⟩, exec_incReg16 .x s,
    exec_incReg16 .sp s, ?incBC, exec_decReg16 .x s, exec_decReg16 .sp s, ?decBC⟩
  case incBC => rw [exec_incReg16, State.reg16_bc, concat_add_one, State.setReg16_bc, hi_concat, lo_concat]
  case decBC => rw [exec_decReg16, State.reg16_bc, concat_sub_one, State.setReg16_bc, hi_concat, lo_concat]

/-! ### `NEG` -/

/-- R202. -/
theorem exec_neg (s : State) : exec .neg s = .next (s.setAlu (sub8 0 s.a false)) := rfl

/-- D14: the subtraction from 0 overflows at 0x80 alone. -/
theorem neg_overflows (b : Byte) : overflows ((0 : Byte).toInt - b.toInt) = decide (b = 0x80) := by
  have value : b = 0x80 ↔ b.toNat = 0x80 := BitVec.toNat_inj.symm
  have zero : (0 : Byte).toInt = 0 := rfl
  have small : b.toNat < 256 := b.isLt
  rw [overflows, decide_eq_decide, value, zero, BitVec.toInt_eq_toNat_cond]
  omega

/-- D14: the subtraction from 0 borrows unless its operand is 0 and overflows at 0x80 alone. -/
theorem sub8_zero_left (b : Byte) :
    sub8 0 b false = withZsp (0 - b) (decide (b ≠ 0)) (decide (b = 0x80)) := by
  have borrow : decide ((0 : Byte).toNat < b.toNat) = decide (b ≠ 0) := by
    rw [decide_eq_decide, ne_eq, ← BitVec.toNat_inj]
    exact Nat.pos_iff_ne_zero
  rw [sub8_false, borrow, neg_overflows]

/-- Settles O43: the meaning of `NEG` is a subtraction from 0. -/
theorem negResult : Obligations.NegResult := by
  unfold Obligations.NegResult
  intro s
  refine ⟨⟨rfl, fun _ => rfl⟩, ?_⟩
  rw [exec_neg, sub8_zero_left, State.setAlu_withZsp]

end Sys2Proof.Machine
end

section
/-! Shifts and rotations (42_alu_unary.md R204 to R211): the table of R210 bit by bit, and the identities of
repeated shifts. -/

namespace Sys2Proof.Machine

/-! ### The meanings -/

/-- R204. -/
theorem exec_rol (s : State) : exec .rol s = .next (s.setAlu (rol8 s.a)) := rfl

/-- R205. -/
theorem exec_ror (s : State) : exec .ror s = .next (s.setAlu (ror8 s.a)) := rfl

/-- R206. -/
theorem exec_rcl (s : State) : exec .rcl s = .next (s.setAlu (rcl8 s.a s.flags.fc)) := rfl

/-- R207. -/
theorem exec_rcr (s : State) : exec .rcr s = .next (s.setAlu (rcr8 s.a s.flags.fc)) := rfl

/-- R208. -/
theorem exec_shl (s : State) : exec .shl s = .next (s.setAlu (shl8 s.a)) := rfl

/-- R209. -/
theorem exec_shr (s : State) : exec .shr s = .next (s.setAlu (shr8 s.a)) := rfl

/-- R211. -/
theorem exec_sar (s : State) : exec .sar s = .next (s.setAlu (sar8 s.a)) := rfl

/-! ### The bits of a rotation -/

/-- The bits of a byte with one bit set or none. -/
theorem getLsbD_bitAt {k : Nat} (hk : k < 8) (v : Bool) (i : Nat) :
    (bitAt k v).getLsbD i = (v && decide (i = k)) := by
  cases v
  case false => simp [bitAt]
  case true =>
    simp only [bitAt, if_true, BitVec.getLsbD_shiftLeft]
    obtain below | rfl | above := Nat.lt_trichotomy i k
    · simp [below, Nat.ne_of_lt below]
    · simp [hk]
    · simp [Nat.not_lt_of_lt above, Nat.ne_of_gt above, Nat.sub_ne_zero_of_lt above]

/-- R206: the carry enters at bit 0, every other bit moves one up. -/
theorem getLsbD_rcl8 (a : Byte) (c : Bool) (i : Nat) (hi : i < 8) :
    (rcl8 a c).r.getLsbD i = if i = 0 then c else a.getLsbD (i - 1) := by
  change ((a <<< 1) ||| bitAt 0 c).getLsbD i = _
  rw [BitVec.getLsbD_or, BitVec.getLsbD_shiftLeft, getLsbD_bitAt (by omega)]
  by_cases h : i = 0 <;> simp [h, hi]

/-- R207: the carry enters at bit 7, every other bit moves one down. -/
theorem getLsbD_rcr8 (a : Byte) (c : Bool) (i : Nat) :
    (rcr8 a c).r.getLsbD i = if i = 7 then c else a.getLsbD (i + 1) := by
  change ((a >>> 1) ||| bitAt 7 c).getLsbD i = _
  rw [BitVec.getLsbD_or, BitVec.getLsbD_ushiftRight, getLsbD_bitAt (by omega), Nat.add_comm]
  by_cases h : i = 7 <;> simp [h]

/-! ### The table -/

/-- A result is the row of R210 for `old`: new bit 7, new bits 6 to 1, new bit 0, the outgoing bit in C, O set
when bit 7 changed, Z, S, P of the result alone. -/
abbrev IsShiftRow (old : Byte) (u : AluOut) (bit7 : Bool) (bits6to1 : BitVec 6) (bit0 out : Bool) : Prop :=
  u.r.getLsbD 7 = bit7 ∧ u.r.extractLsb' 1 6 = bits6to1 ∧ u.r.getLsbD 0 = bit0 ∧
    u = withZsp u.r out (old.getLsbD 7 ^^ u.r.getLsbD 7)

/-- R206. -/
theorem rcl8_row (a : Byte) (cin : Bool) :
    IsShiftRow a (rcl8 a cin) (a.getLsbD 6) (a.extractLsb' 0 6) cin (a.getLsbD 7) := by
  refine ⟨getLsbD_rcl8 a cin 7 (by omega), BitVec.eq_of_getLsbD_eq fun i hi => ?_,
    getLsbD_rcl8 a cin 0 (by omega), rfl⟩
  simp [hi, getLsbD_rcl8 a cin (1 + i) (by omega)]

/-- R207. -/
theorem rcr8_row (a : Byte) (cin : Bool) :
    IsShiftRow a (rcr8 a cin) cin (a.extractLsb' 2 6) (a.getLsbD 1) (a.getLsbD 0) := by
  refine ⟨getLsbD_rcr8 a cin 7, BitVec.eq_of_getLsbD_eq fun i hi => ?_, getLsbD_rcr8 a cin 0, rfl⟩
  have inside : 1 + i ≠ 7 := by omega
  have source : 1 + i + 1 = 2 + i := by omega
  simp [hi, getLsbD_rcr8, inside, source]

/-- R204: `ROL` lets in the bit that leaves. -/
theorem rol8_eq_rcl8 (a : Byte) : rol8 a = rcl8 a (a.getLsbD 7) := rfl

/-- R205: `ROR` lets in the bit that leaves. -/
theorem ror8_eq_rcr8 (a : Byte) : ror8 a = rcr8 a (a.getLsbD 0) := rfl

/-- The sign bit alone. -/
theorem and_0x80 (a : Byte) : a &&& 0x80 = bitAt 7 (a.getLsbD 7) := by
  refine BitVec.eq_of_getLsbD_eq fun i _ => ?_
  change (a &&& bitAt 7 true).getLsbD i = _
  rw [BitVec.getLsbD_and, getLsbD_bitAt (by omega), getLsbD_bitAt (by omega)]
  by_cases h : i = 7 <;> simp [h]

/-- R211: `SAR` lets in the sign, so that bit 7 does not change and O is 0. -/
theorem sar8_eq_rcr8 (a : Byte) : sar8 a = rcr8 a (a.getLsbD 7) := by
  have kept : (a.msb ^^ ((a >>> 1) ||| bitAt 7 (a.getLsbD 7)).msb) = false := by
    have signKept : ((a >>> 1) ||| bitAt 7 (a.getLsbD 7)).msb = a.msb := getLsbD_rcr8 a (a.getLsbD 7) 7
    rw [signKept, Bool.xor_self]
  simp only [sar8, rcr8, shift8, withZsp, and_0x80, kept]

/-- An instruction that stores a row of the table answers as R210 prints it. -/
theorem exec_of_shiftRow {i : Instr} {s : State} {u : AluOut} {bit7 bit0 out : Bool} {bits6to1 : BitVec 6}
    (meaning : exec i s = .next (s.setAlu u)) (row : IsShiftRow s.a u bit7 bits6to1 bit0 out) :
    ∃ r : Byte, r.getLsbD 7 = bit7 ∧ r.extractLsb' 1 6 = bits6to1 ∧ r.getLsbD 0 = bit0 ∧
      exec i s = .next { s with
        a := r, flags := flagsOf s.flags r out (s.a.getLsbD 7 ^^ r.getLsbD 7) } := by
  obtain ⟨h7, h6to1, h0, hu⟩ := row
  refine ⟨u.r, h7, h6to1, h0, ?_⟩
  rw [meaning, ← State.setAlu_withZsp, ← hu]

/-- Settles O45: the seven rows, each a shift that lets in the carry, a bit of A or 0. -/
theorem shiftTable : Obligations.ShiftTable := by
  unfold Obligations.ShiftTable
  intro s
  have rol := exec_rol s
  have ror := exec_ror s
  have shl := exec_shl s
  have shr := exec_shr s
  have sar := exec_sar s
  rw [rol8_eq_rcl8] at rol
  rw [ror8_eq_rcr8] at ror
  rw [shl8_eq_rcl8] at shl
  rw [shr8_eq_rcr8] at shr
  rw [sar8_eq_rcr8] at sar
  simp only [List.forall_mem_cons]
  exact ⟨⟨⟨rfl, fun _ => rfl⟩, exec_of_shiftRow rol (rcl8_row s.a _)⟩,
    ⟨⟨rfl, fun _ => rfl⟩, exec_of_shiftRow ror (rcr8_row s.a _)⟩,
    ⟨⟨rfl, fun _ => rfl⟩, exec_of_shiftRow (exec_rcl s) (rcl8_row s.a s.flags.fc)⟩,
    ⟨⟨rfl, fun _ => rfl⟩, exec_of_shiftRow (exec_rcr s) (rcr8_row s.a s.flags.fc)⟩,
    ⟨⟨rfl, fun _ => rfl⟩, exec_of_shiftRow shl (rcl8_row s.a false)⟩,
    ⟨⟨rfl, fun _ => rfl⟩, exec_of_shiftRow shr (rcr8_row s.a false)⟩,
    ⟨⟨rfl, fun _ => rfl⟩, exec_of_shiftRow sar (rcr8_row s.a _)⟩, List.forall_mem_nil _⟩

/-! ### Turns -/

/-- `f` turns the `m` bits of its argument by `k` places. -/
def Turns {α : Type} (bit : α → Nat → Bool) (m k : Nat) (f : α → α) : Prop :=
  ∀ x, ∀ i < m, bit (f x) i = bit x ((i + k) % m)

section
variable {α : Type} {bit : α → Nat → Bool} {m k l : Nat} {f g : α → α}

/-- One turn after another. -/
theorem Turns.comp (hf : Turns bit m k f) (hg : Turns bit m l g) : Turns bit m (k + l) (f ∘ g) := by
  intro x i hi
  calc bit (f (g x)) i = bit (g x) ((i + k) % m) := hf _ i hi
    _ = bit x (((i + k) % m + l) % m) := hg x _ (Nat.mod_lt _ (Nat.zero_lt_of_lt hi))
    _ = bit x ((i + (k + l)) % m) := by rw [Nat.mod_add_mod, Nat.add_assoc]

/-- A turn repeated. -/
theorem Turns.iterate (hf : Turns bit m k f) (n : Nat) : Turns bit m (n * k) f^[n] := by
  induction n with
  | zero => exact fun x i hi => by rw [Nat.zero_mul, Nat.add_zero, Nat.mod_eq_of_lt hi]; rfl
  | succ n ih => rw [Nat.succ_mul]; exact ih.comp hf

/-- A turn by a whole number of rounds changes nothing. -/
theorem Turns.eq_self (ext : ∀ x y, (∀ i < m, bit x i = bit y i) → x = y) (rounds : m ∣ k)
    (hf : Turns bit m k f) (x : α) : f x = x := by
  obtain ⟨r, rfl⟩ := rounds
  exact ext _ _ fun i hi => by rw [hf x i hi, Nat.add_mul_mod_self_left, Nat.mod_eq_of_lt hi]

end

/-- R204: each bit of A comes from the one below, bit 0 from bit 7. -/
theorem rol8_turns : Turns BitVec.getLsbD 8 7 fun a => (rol8 a).r := by
  intro a i hi
  refine (getLsbD_rcl8 a (a.getLsbD 7) i hi).trans ?_
  obtain rfl | h0 := Nat.eq_zero_or_pos i
  · rfl
  · have source : (i + 7) % 8 = i - 1 := by omega
    rw [if_neg (Nat.ne_of_gt h0), source]

/-- R205: each bit of A comes from the one above, bit 7 from bit 0. -/
theorem ror8_turns : Turns BitVec.getLsbD 8 1 fun a => (ror8 a).r := by
  intro a i hi
  refine (getLsbD_rcr8 a (a.getLsbD 0) i).trans ?_
  obtain rfl | h7 := Nat.eq_or_lt_of_le (Nat.le_of_lt_succ hi)
  · rfl
  · have source : (i + 1) % 8 = i + 1 := by omega
    rw [if_neg (Nat.ne_of_lt h7), source]

/-- What an operation on A and the carry makes of the two. -/
def shiftPair (f : Byte → Bool → AluOut) (p : Byte × Bool) : Byte × Bool := ((f p.1 p.2).r, (f p.1 p.2).c)

/-- The 9 bits of C and A, C above A. -/
def pairBit (p : Byte × Bool) (i : Nat) : Bool := if i = 8 then p.2 else p.1.getLsbD i

/-- The 9 bits determine C and A. -/
theorem pairBit_ext (p q : Byte × Bool) (h : ∀ i < 9, pairBit p i = pairBit q i) : p = q := by
  refine Prod.ext (BitVec.eq_of_getLsbD_eq fun i hi => ?_) (h 8 (by omega))
  simpa [pairBit, Nat.ne_of_lt hi] using h i (by omega)

/-- R206: the bits of C and A move one up, C into bit 0. -/
theorem rcl8_turns : Turns pairBit 9 8 (shiftPair rcl8) := by
  intro p i hi
  obtain rfl | h0 := Nat.eq_zero_or_pos i
  · exact getLsbD_rcl8 p.1 p.2 0 (by omega)
  obtain rfl | h8 := Nat.eq_or_lt_of_le (Nat.le_of_lt_succ hi)
  · rfl
  · have source : (i + 8) % 9 = i - 1 := by omega
    have inside : i - 1 ≠ 8 := by omega
    simp only [pairBit, shiftPair, source, if_neg (Nat.ne_of_lt h8), if_neg inside,
      getLsbD_rcl8 p.1 p.2 i h8, if_neg (Nat.ne_of_gt h0)]

/-- R207: the bits of C and A move one down, C into bit 7. -/
theorem rcr8_turns : Turns pairBit 9 1 (shiftPair rcr8) := by
  intro p i hi
  obtain rfl | h8 := Nat.eq_or_lt_of_le (Nat.le_of_lt_succ hi)
  · rfl
  obtain rfl | h7 := Nat.eq_or_lt_of_le (Nat.le_of_lt_succ h8)
  · exact getLsbD_rcr8 p.1 p.2 7
  · have source : (i + 1) % 9 = i + 1 := by omega
    have inside : i + 1 ≠ 8 := by omega
    simp only [pairBit, shiftPair, source, if_neg (Nat.ne_of_lt h8), if_neg inside, getLsbD_rcr8,
      if_neg (Nat.ne_of_lt h7)]

/-- R204: eight rotations turn the 8 bits of A once round. -/
theorem rol8_iterate_eight (a : Byte) : (fun a => (rol8 a).r)^[8] a = a :=
  (rol8_turns.iterate 8).eq_self (fun _ _ => BitVec.eq_of_getLsbD_eq) ⟨7, rfl⟩ a

/-- R205: the same to the right. -/
theorem ror8_iterate_eight (a : Byte) : (fun a => (ror8 a).r)^[8] a = a :=
  (ror8_turns.iterate 8).eq_self (fun _ _ => BitVec.eq_of_getLsbD_eq) ⟨1, rfl⟩ a

/-- R206: nine rotations turn the 9 bits of C and A once round. -/
theorem rcl8_iterate_nine (p : Byte × Bool) : (shiftPair rcl8)^[9] p = p :=
  (rcl8_turns.iterate 9).eq_self pairBit_ext ⟨8, rfl⟩ p

/-- R207: the same to the right. -/
theorem rcr8_iterate_nine (p : Byte × Bool) : (shiftPair rcr8)^[9] p = p :=
  (rcr8_turns.iterate 9).eq_self pairBit_ext ⟨1, rfl⟩ p

/-- R206, R207: `RCR` undoes `RCL`. -/
theorem rcr8_rcl8 (a : Byte) (c : Bool) :
    (rcr8 (rcl8 a c).r (rcl8 a c).c).r = a ∧ (rcr8 (rcl8 a c).r (rcl8 a c).c).c = c :=
  Prod.mk.inj ((rcr8_turns.comp rcl8_turns).eq_self pairBit_ext ⟨1, rfl⟩ (a, c))

/-- R204, R205: `ROR` undoes `ROL`. -/
theorem ror8_rol8 (a : Byte) : (ror8 (rol8 a).r).r = a :=
  (ror8_turns.comp rol8_turns).eq_self (fun _ _ => BitVec.eq_of_getLsbD_eq) ⟨1, rfl⟩ a

/-- R208: a shift to the left is the double. -/
theorem shl8_eq_add8 (a : Byte) : shl8 a = add8 a a false := by
  have double : a <<< 1 = a + a := by
    refine BitVec.eq_of_toNat_eq ?_
    simp [Nat.shiftLeft_eq, Nat.mul_two]
  have carry : a.msb = decide (256 ≤ a.toNat + a.toNat) := by
    rw [BitVec.msb_eq_decide, decide_eq_decide]
    omega
  have overflow : (a.msb ^^ (a + a).msb) = overflows (a.toInt + a.toInt) := by
    have small : a.toNat < 256 := a.isLt
    rw [BitVec.msb_eq_decide, BitVec.msb_eq_decide, BitVec.toInt_eq_toNat_cond, BitVec.toNat_add]
    rw [overflows, Bool.eq_iff_iff, bne_iff_ne, ne_eq, decide_eq_decide, decide_eq_true_iff]
    omega
  rw [add8_false, ← overflow, ← carry, ← double]
  rfl

/-- R204 as a rotation of the word. -/
theorem rotateLeft_one (a : Byte) : a.rotateLeft 1 = (rol8 a).r := by
  refine BitVec.eq_of_getLsbD_eq fun i hi => ?_
  rw [rol8_turns a i hi, BitVec.getLsbD_rotateLeft]
  obtain rfl | h0 := Nat.eq_zero_or_pos i
  · rfl
  · have source : (i + 7) % 8 = i - 1 := by omega
    have inside : ¬ i < 1 % 8 := by omega
    simp [inside, hi, source]

/-- R205 as a rotation of the word. -/
theorem rotateRight_one (a : Byte) : a.rotateRight 1 = (ror8 a).r := by
  refine BitVec.eq_of_getLsbD_eq fun i hi => ?_
  rw [ror8_turns a i hi, BitVec.getLsbD_rotateRight]
  obtain rfl | h7 := Nat.eq_or_lt_of_le (Nat.le_of_lt_succ hi)
  · rfl
  · have source : (i + 1) % 8 = 1 + i := by omega
    have inside : i < 8 - 1 % 8 := by omega
    simp [inside, source]

/-- R211 as an arithmetic shift. -/
theorem sshiftRight_one (a : Byte) : a.sshiftRight 1 = (sar8 a).r := by
  refine BitVec.eq_of_getLsbD_eq fun i hi => ?_
  rw [sar8_eq_rcr8, getLsbD_rcr8, BitVec.getLsbD_sshiftRight]
  obtain rfl | h7 := Nat.eq_or_lt_of_le (Nat.le_of_lt_succ hi)
  · rfl
  · have inside : 1 + i < 8 := by omega
    have above : ¬ 8 ≤ i := by omega
    rw [if_neg (Nat.ne_of_lt h7), Nat.add_comm i 1]
    simp [inside, above]

/-! ### Repeated shifts -/

/-- Executions one after another of an instruction that stores `f` of A and C iterate `f` on the two. -/
theorem repeatExec_iterate {i : Instr} {f : Byte → Bool → AluOut}
    (meaning : ∀ s, exec i s = .next (s.setAlu (f s.a s.flags.fc))) (n : Nat) (s : State) :
    ∃ t, repeatExec i n s = some t ∧ (t.a, t.flags.fc) = (shiftPair f)^[n] (s.a, s.flags.fc) := by
  induction n generalizing s with
  | zero => exact ⟨s, rfl, rfl⟩
  | succ n ih =>
    obtain ⟨t, ran, pair⟩ := ih (s.setAlu (f s.a s.flags.fc))
    refine ⟨t, ?_, pair⟩
    simp only [repeatExec, meaning]
    exact ran

/-- An operation on A alone is iterated on A alone. -/
theorem shiftPair_iterate_fst (f : Byte → AluOut) (n : Nat) (p : Byte × Bool) :
    ((shiftPair fun a _ => f a)^[n] p).1 = (fun a => (f a).r)^[n] p.1 :=
  Function.Semiconj.iterate_right (f := Prod.fst) (fun _ => rfl) n p

/-- Settles O46: each identity of the instructions is one of the operations on A and C. -/
theorem shiftIdentities : Obligations.ShiftIdentities := by
  unfold Obligations.ShiftIdentities
  intro s
  refine ⟨?rol, ?ror, ?rcl, ?rcr, ⟨_, _, exec_rcl s, exec_rcr _, rcr8_rcl8 s.a s.flags.fc⟩,
    ⟨_, _, exec_rol s, exec_ror _, ror8_rol8 s.a⟩, _, exec_shl s, ?shl⟩
  case rol =>
    obtain ⟨t, ran, pair⟩ := repeatExec_iterate (f := fun a _ => rol8 a) exec_rol 8 s
    rw [Prod.ext_iff, shiftPair_iterate_fst, rol8_iterate_eight] at pair
    exact ⟨t, ran, pair.1⟩
  case ror =>
    obtain ⟨t, ran, pair⟩ := repeatExec_iterate (f := fun a _ => ror8 a) exec_ror 8 s
    rw [Prod.ext_iff, shiftPair_iterate_fst, ror8_iterate_eight] at pair
    exact ⟨t, ran, pair.1⟩
  case rcl =>
    obtain ⟨t, ran, pair⟩ := repeatExec_iterate exec_rcl 9 s
    exact ⟨t, ran, Prod.mk.inj (pair.trans (rcl8_iterate_nine _))⟩
  case rcr =>
    obtain ⟨t, ran, pair⟩ := repeatExec_iterate exec_rcr 9 s
    exact ⟨t, ran, Prod.mk.inj (pair.trans (rcr8_iterate_nine _))⟩
  case shl => rw [exec_add, State.readOp8_reg, State.reg8_a, shl8_eq_add8]

end Sys2Proof.Machine
end

section
/-! The ALU functions (46_alu_microops.md R291, R292): each gives the result that its flags belong to, and each
instruction takes the function its row names. -/

namespace Sys2Proof.Machine

/-- A result whose Z, S and P are its own (R28, R30, R31). -/
structure AluOut.OwnZsp (u : AluOut) : Prop where
  z : u.z = decide (u.r = 0)
  s : u.s = u.r.msb
  p : u.p = decide (popcount u.r % 2 = 0)

/-- The carry input, widened to a byte. -/
theorem setWidth_ofBool (fc : Bool) : (BitVec.ofBool fc).setWidth 8 = (if fc then 1 else 0 : Byte) := by
  cases fc <;> rfl

/-- The function code gives the result `u`, alone and with its flags (R291, R292). -/
def IsAluRow (code : BitVec 4) (ent1 ent2 : Byte) (fc : Bool) (u : AluOut) : Prop :=
  alu code ent1 ent2 fc = some u.r ∧ aluOut code ent1 ent2 fc = some u ∧ u.OwnZsp

section
variable (a b : Byte) (fc : Bool)

/-- The sum with the carry input. -/
theorem aluRow_add : IsAluRow 0b0010 a b fc (add8 a b fc) := by
  refine ⟨?_, rfl, ⟨rfl, rfl, rfl⟩⟩
  rw [add8_eq_overflows, ← setWidth_ofBool]
  rfl

/-- The conjunction, bit by bit. -/
theorem aluRow_and : IsAluRow 0b0011 a b fc (logic8 (a &&& b)) := ⟨rfl, rfl, ⟨rfl, rfl, rfl⟩⟩

/-- ENT2 counted down. -/
theorem aluRow_dec : IsAluRow 0b0100 a b fc (sub8 b 1 false) := by
  refine ⟨?_, rfl, ⟨rfl, rfl, rfl⟩⟩
  rw [sub8_one]
  rfl

/-- ENT2 counted up. -/
theorem aluRow_inc : IsAluRow 0b0101 a b fc (add8 b 1 false) := by
  refine ⟨?_, rfl, ⟨rfl, rfl, rfl⟩⟩
  rw [add8_one]
  rfl

/-- The two's complement of ENT1. -/
theorem aluRow_neg : IsAluRow 0b0110 a b fc (sub8 0 a false) := by
  refine ⟨?_, rfl, ⟨rfl, rfl, rfl⟩⟩
  rw [sub8_zero_left, zero_sub]
  rfl

/-- The one's complement of ENT1. -/
theorem aluRow_not : IsAluRow 0b0111 a b fc (logic8 (a ^^^ 0xFF)) := by
  refine ⟨?_, rfl, ⟨rfl, rfl, rfl⟩⟩
  rw [xor_0xFF]
  rfl

/-- The disjunction, bit by bit. -/
theorem aluRow_or : IsAluRow 0b1000 a b fc (logic8 (a ||| b)) := ⟨rfl, rfl, ⟨rfl, rfl, rfl⟩⟩

/-- ENT1 shifted to the left through the carry. -/
theorem aluRow_rcl : IsAluRow 0b1001 a b fc (rcl8 a fc) := by
  cases fc <;> exact ⟨rfl, rfl, ⟨rfl, rfl, rfl⟩⟩

/-- ENT1 shifted to the right through the carry. -/
theorem aluRow_rcr : IsAluRow 0b1010 a b fc (rcr8 a fc) := by
  cases fc <;> exact ⟨rfl, rfl, ⟨rfl, rfl, rfl⟩⟩

/-- The difference with the carry input as borrow. -/
theorem aluRow_sub : IsAluRow 0b1011 a b fc (sub8 a b fc) := by
  refine ⟨?_, rfl, ⟨rfl, rfl, rfl⟩⟩
  rw [sub8_eq_overflows, ← setWidth_ofBool, sub_sub, sub_eq_add_neg]
  rfl

/-- ENT1 rotated to the left. -/
theorem aluRow_rol : IsAluRow 0b1100 a b fc (rol8 a) :=
  ⟨congrArg some (rotateLeft_one a), rfl, ⟨rfl, rfl, rfl⟩⟩

/-- ENT1 rotated to the right. -/
theorem aluRow_ror : IsAluRow 0b1101 a b fc (ror8 a) :=
  ⟨congrArg some (rotateRight_one a), rfl, ⟨rfl, rfl, rfl⟩⟩

/-- ENT1 shifted to the right, the sign kept. -/
theorem aluRow_sar : IsAluRow 0b1110 a b fc (sar8 a) :=
  ⟨congrArg some (sshiftRight_one a), rfl, ⟨rfl, rfl, rfl⟩⟩

/-- The exclusive-or, bit by bit. -/
theorem aluRow_xor : IsAluRow 0b1111 a b fc (logic8 (a ^^^ b)) := ⟨rfl, rfl, ⟨rfl, rfl, rfl⟩⟩

/-- R292: the code 0001 has no row, every other code has one. -/
theorem aluRow_cases (code : BitVec 4) :
    (code = 0b0001 ∧ alu code a b fc = none ∧ aluOut code a b fc = none) ∨
      (code ≠ 0b0001 ∧ ∃ u, IsAluRow code a b fc u) := by
  have codes : ∀ c : BitVec 4, c = 0 ∨ c = 1 ∨ c = 2 ∨ c = 3 ∨ c = 4 ∨ c = 5 ∨ c = 6 ∨ c = 7 ∨
      c = 8 ∨ c = 9 ∨ c = 10 ∨ c = 11 ∨ c = 12 ∨ c = 13 ∨ c = 14 ∨ c = 15 := by decide
  obtain rfl | rfl | rfl | rfl | rfl | rfl | rfl | rfl | rfl | rfl | rfl | rfl | rfl | rfl | rfl | rfl :=
    codes code
  · exact .inr ⟨by decide, _, rfl, rfl, ⟨rfl, rfl, rfl⟩⟩
  · exact .inl ⟨rfl, rfl, rfl⟩
  · exact .inr ⟨by decide, _, aluRow_add a b fc⟩
  · exact .inr ⟨by decide, _, aluRow_and a b fc⟩
  · exact .inr ⟨by decide, _, aluRow_dec a b fc⟩
  · exact .inr ⟨by decide, _, aluRow_inc a b fc⟩
  · exact .inr ⟨by decide, _, aluRow_neg a b fc⟩
  · exact .inr ⟨by decide, _, aluRow_not a b fc⟩
  · exact .inr ⟨by decide, _, aluRow_or a b fc⟩
  · exact .inr ⟨by decide, _, aluRow_rcl a b fc⟩
  · exact .inr ⟨by decide, _, aluRow_rcr a b fc⟩
  · exact .inr ⟨by decide, _, aluRow_sub a b fc⟩
  · exact .inr ⟨by decide, _, aluRow_rol a b fc⟩
  · exact .inr ⟨by decide, _, aluRow_ror a b fc⟩
  · exact .inr ⟨by decide, _, aluRow_sar a b fc⟩
  · exact .inr ⟨by decide, _, aluRow_xor a b fc⟩

end

/-- An instruction that stores the result of an ALU function leaves it in A. -/
theorem exec_of_aluRow {i : Instr} {s : State} {code : BitVec 4} {ent1 ent2 : Byte} {fc : Bool} {u : AluOut}
    (meaning : exec i s = .next (s.setAlu u)) (row : IsAluRow code ent1 ent2 fc u) :
    ∃ t, exec i s = .next t ∧ alu code ent1 ent2 fc = some t.a :=
  ⟨_, meaning, row.1⟩

/-- Settles O58: each instruction's meaning with the row of its function, and every code has its row but one. -/
theorem instructionsUseTheirAluFunction : Obligations.InstructionsUseTheirAluFunction := by
  unfold Obligations.InstructionsUseTheirAluFunction
  refine ⟨fun s src r q => ⟨?storesA, ?storesReg, ⟨_, exec_movReg16 .bc (.reg q) s, rfl, rfl⟩,
    ⟨_, _, exec_cmp src s, rfl, rfl, rfl, rfl⟩⟩, fun code ent1 ent2 fc u => ?codes⟩
  case storesA =>
    have shl := exec_shl s
    have shr := exec_shr s
    rw [shl8_eq_rcl8] at shl
    rw [shr8_eq_rcr8] at shr
    simp only [List.forall_mem_cons]
    exact ⟨exec_of_aluRow (exec_adc src s) (aluRow_add ..), exec_of_aluRow (exec_add src s) (aluRow_add ..),
      exec_of_aluRow (exec_and src s) (aluRow_and ..), exec_of_aluRow (exec_neg s) (aluRow_neg ..),
      exec_of_aluRow (exec_not s) (aluRow_not ..), exec_of_aluRow (exec_or src s) (aluRow_or ..),
      exec_of_aluRow (exec_rcl s) (aluRow_rcl ..), exec_of_aluRow shl (aluRow_rcl ..),
      exec_of_aluRow (exec_rcr s) (aluRow_rcr ..), exec_of_aluRow shr (aluRow_rcr ..),
      exec_of_aluRow (exec_sbb src s) (aluRow_sub ..), exec_of_aluRow (exec_sub src s) (aluRow_sub ..),
      exec_of_aluRow (exec_rol s) (aluRow_rol ..), exec_of_aluRow (exec_ror s) (aluRow_ror ..),
      exec_of_aluRow (exec_sar s) (aluRow_sar ..), exec_of_aluRow (exec_xor src s) (aluRow_xor ..),
      List.forall_mem_nil _⟩
  case storesReg =>
    simp only [List.forall_mem_cons]
    refine ⟨⟨_, exec_movReg8 r src s, ?_⟩, ⟨_, exec_decReg8 r s, ?_⟩, ⟨_, exec_incReg8 r s, ?_⟩,
      List.forall_mem_nil _⟩
    · rw [State.reg8_setReg8_same]
      rfl
    · rw [State.reg8_setCount_same, (aluRow_dec ..).1]
    · rw [State.reg8_setCount_same, (aluRow_inc ..).1]
  case codes =>
    obtain ⟨unused, noResult, noFlags⟩ | ⟨used, v, result, flags, own⟩ := aluRow_cases ent1 ent2 fc code
    · exact ⟨fun h => absurd (noFlags.symm.trans h) (by simp), iff_of_true noResult unused,
        iff_of_true noFlags unused⟩
    · refine ⟨fun h => ?_, iff_of_false (by simp [result]) used,
        iff_of_false (by simp [flags]) used⟩
      obtain rfl := Option.some.inj (flags.symm.trans h)
      exact ⟨result, own.z, own.s, own.p⟩

end Sys2Proof.Machine
end

section
/-! The cycles of the basic operations of an instruction add up to its cycles (46_alu_microops.md R318). -/

namespace Sys2Proof.Machine

/-- The cycles of a sequence are those of its first transfer and of the rest. -/
theorem transferCycles_cons (t : Transfer) (ts : List Transfer) :
    transferCycles (t :: ts) = t.op.cycles + transferCycles ts := rfl

/-- R304 to R306: an `op8` takes 2 cycles and column B to the ALU. -/
theorem transferCycles_op8 (u : AluUse) (q : Op8) :
    transferCycles (Op8.transfers u q) = 2 + Op8.extraCycles q := by
  rcases q with (_ | _ | _) | _ | _ <;> rfl

/-- R307: a store takes 2 cycles and column B. -/
theorem transferCycles_mem8 (r : Reg8) (m : Mem8) :
    transferCycles (Mem8.transfers r m) = 2 + Mem8.extraCycles m := by
  cases m <;> rfl

/-- R308: a 16-bit move takes 2 cycles and column B, through the ALU or not. -/
theorem transferCycles_op16 (r : Reg16) (q : Op16) :
    transferCycles (Op16.transfers r q) = 2 + Op16.extraCycles q := by
  cases q <;> cases r <;> rfl

/-- R311: a conditional jump. -/
theorem transferCycles_jump (taken : Bool) :
    transferCycles (jumpTransfers taken) = if taken then 12 else 7 := by
  cases taken <;> rfl

/-- The instruction has a sequence, whose cycles are those of the table. -/
def SumsUp (f : Flags) (i : Instr) : Prop :=
  ∃ ts, Instr.transfers f i = some ts ∧ transferCycles ts = Instr.cycles f i

/-- An opcode fetch of 5 cycles before a rest of 2 cycles and column B makes 7 and column B. -/
theorem sumsUp_of_rest {f : Flags} {i : Instr} {t : Transfer} {ts : List Transfer} {extra : Nat}
    (sequence : Instr.transfers f i = some (t :: ts)) (fetch : t.op.cycles = 5)
    (rest : transferCycles ts = 2 + extra) (cycles : Instr.cycles f i = 7 + extra) : SumsUp f i := by
  refine ⟨_, sequence, ?_⟩
  rw [transferCycles_cons, fetch, rest, cycles, ← Nat.add_assoc]

/-- R318, instruction by instruction. -/
theorem hlt_or_sumsUp (f : Flags) (i : Instr) : i = .hlt ∨ SumsUp f i := by
  cases i
  case hlt => exact .inl rfl
  case add q | sub q | cmp q | adc q | sbb q | and q | or q | xor q | movReg8 _ q =>
    exact .inr (sumsUp_of_rest rfl rfl (transferCycles_op8 _ q) rfl)
  case movMem8 m r => exact .inr (sumsUp_of_rest rfl rfl (transferCycles_mem8 r m) rfl)
  case movReg16 r q => exact .inr (sumsUp_of_rest rfl rfl (transferCycles_op16 r q) rfl)
  case jc | jnc | jo | jno | jp | jnp | js | jns | jz | jnz =>
    exact .inr ⟨_, rfl, transferCycles_jump _⟩
  all_goals exact .inr ⟨_, rfl, rfl⟩

/-- Settles O59: `HLT` alone has no sequence, every other instruction has one that sums up. -/
theorem basicOperationsSumToCycles : Obligations.BasicOperationsSumToCycles := by
  unfold Obligations.BasicOperationsSumToCycles
  intro f i
  obtain rfl | ⟨ts, sequence, sum⟩ := hlt_or_sumsUp f i
  · exact ⟨fun ts sequence => (by cases sequence), iff_of_true rfl rfl⟩
  · refine ⟨fun ts' sequence' => ?_, fun none => ?_, ?_⟩
    · rw [← Option.some.inj (sequence.symm.trans sequence'), sum]
    · rw [sequence] at none
      cases none
    · rintro rfl
      cases sequence

end Sys2Proof.Machine
end

section
/-! The basic operations carry the instructions out (46_alu_microops.md R294 to R317): what each part of a
sequence does to the datapath, then one lemma per shape of sequence. -/

namespace Sys2Proof.Machine

/-! ### Bytes in memory -/

/-- The address of the byte after `n + 1` others. -/
theorem add_ofNat_succ (p : Word) (n : Nat) :
    p + BitVec.ofNat 16 (n + 1) = p + 1 + BitVec.ofNat 16 n := by
  rw [Nat.add_comm n 1, BitVec.ofNat_add, BitVec.add_assoc]
  rfl

/-- A first byte and those after it. -/
theorem State.bytesAt_cons {s : State} {p : Word} {b : Byte} {bytes : List Byte}
    (h : s.BytesAt p (b :: bytes)) : s.readByte p = b ∧ s.BytesAt (p + 1) bytes := by
  constructor
  · have first := h 0 (Nat.succ_pos _)
    rwa [BitVec.add_zero] at first
  · intro k hk
    rw [← add_ofNat_succ]
    exact h (k + 1) (Nat.succ_lt_succ hk)

/-- A byte and a second one. -/
theorem State.bytesAt_pair {s : State} {p : Word} {b1 b2 : Byte} (h : s.BytesAt p [b1, b2]) :
    s.readByte p = b1 ∧ s.readByte (p + 1) = b2 :=
  ⟨(State.bytesAt_cons h).1, (State.bytesAt_cons (State.bytesAt_cons h).2).1⟩

/-! ### Parts of sequences -/

/-- Sequences run one after another. -/
theorem runTransfers_append (ts us : List Transfer) (d : Datapath) :
    runTransfers (ts ++ us) d = runTransfers us (runTransfers ts d) :=
  List.foldl_append

/-- R295: an operand byte fetched to DIR_l. -/
theorem run_fetchDirL (ts : List Transfer) (s : State) (co : Byte) (dir : Word) :
    runTransfers (.fetchDirL :: ts) ⟨s, co, dir⟩ =
      runTransfers ts ⟨{ s with pc := s.pc + 1 }, co, concat (hi dir) (s.readByte s.pc)⟩ := rfl

/-- R295: an operand byte fetched to DIR_h. -/
theorem run_fetchDirH (ts : List Transfer) (s : State) (co : Byte) (dir : Word) :
    runTransfers (.fetchDirH :: ts) ⟨s, co, dir⟩ =
      runTransfers ts ⟨{ s with pc := s.pc + 1 }, co, concat (s.readByte s.pc) (lo dir)⟩ := rfl

/-- R107: a 16-bit operand fetched to DIR, the low byte first. -/
theorem run_fetchDir {s : State} {v : Word} (bytes : s.BytesAt s.pc (wordBytes v)) (ts : List Transfer)
    (co : Byte) (dir : Word) :
    runTransfers (.fetchDirL :: .fetchDirH :: ts) ⟨s, co, dir⟩ =
      runTransfers ts ⟨{ s with pc := s.pc + BitVec.ofNat 16 2 }, co, v⟩ := by
  obtain ⟨low, high⟩ := State.bytesAt_pair bytes
  have second : ({ s with pc := s.pc + 1 } : State).readByte (s.pc + 1) = hi v := high
  rw [run_fetchDirL, run_fetchDirH, low, second, lo_concat, concat_hi_lo, add_ofNat_succ]
  rfl

/-- R314, R316: the two halves of PC pushed. -/
theorem run_pushPc (s : State) (co : Byte) (dir : Word) :
    runTransfers pushPc ⟨s, co, dir⟩ = ⟨s.push (hi s.pc) (lo s.pc), co, dir⟩ := rfl

/-- R316: PC loaded from the entry of the vector in DIR_l. -/
theorem run_loadEntry (s : State) (co : Byte) (dir : Word) :
    runTransfers loadEntry ⟨s, co, dir⟩ =
      ⟨{ s with pc := s.vectorEntry (lo dir) }, co, vectorAddress (lo dir) + 1⟩ := by
  have low := lo_concat (hi s.pc) (s.readByte (vectorAddress (lo dir)))
  have loaded (l : Byte) (h : lo (concat (hi s.pc) (s.readByte (vectorAddress (lo dir)))) = l) :
      runTransfers loadEntry ⟨s, co, dir⟩ =
        ⟨{ s with pc := concat (s.readByte (vectorAddress (lo dir) + 1)) l }, co,
          vectorAddress (lo dir) + 1⟩ := by
    subst h
    rfl
  exact loaded _ low

/-- A byte through the ALU neither looks at PC nor changes it. -/
theorem State.stepPc_passAlu (s : State) (u : AluUse) (v : Byte) :
    (s.passAlu u v).stepPc = ({ s with pc := s.pc + 1 } : State).passAlu u v := by
  cases u with
  | cmp => rfl
  | oper2 code =>
    unfold State.passAlu
    dsimp only
    cases aluOut code s.a v s.flags.fc <;> rfl
  | move r => cases r <;> rfl

/-- R295, F_alu: an operand byte fetched through the ALU. -/
theorem run_fetchAlu (u : AluUse) (ts : List Transfer) (s : State) (co : Byte) (dir : Word) :
    runTransfers (.fetchAlu u :: ts) ⟨s, co, dir⟩ =
      runTransfers ts ⟨({ s with pc := s.pc + 1 } : State).passAlu u (s.readByte s.pc), co, dir⟩ := by
  have fetched : runTransfers (.fetchAlu u :: ts) ⟨s, co, dir⟩ =
      runTransfers ts ⟨(s.passAlu u (s.readByte s.pc)).stepPc, co, dir⟩ := rfl
  rw [fetched, State.stepPc_passAlu]

/-- R304 to R306: the operand of the instruction passes through the ALU, PC past its bytes. -/
theorem run_op8 {s : State} {q : Op8} (bytes : s.BytesAt s.pc q.operandBytes) (u : AluUse) (co : Byte)
    (dir : Word) :
    ∃ dir', runTransfers (Op8.transfers u q) ⟨s, co, dir⟩ =
      ⟨({ s with pc := s.pc + BitVec.ofNat 16 q.operandBytes.length } : State).passAlu u (s.readOp8 q),
        co, dir'⟩ := by
  have noBytes : s.pc + BitVec.ofNat 16 0 = s.pc := BitVec.add_zero _
  rcases q with (a | _ | d) | r | d
  case mem.addr =>
    refine ⟨a, ?_⟩
    rw [Op8.transfers, run_fetchDir bytes]
    rfl
  case mem.atBC =>
    refine ⟨dir, ?_⟩
    rw [Op8.operandBytes, Mem8.operandBytes, List.length_nil, noBytes]
    rfl
  case mem.atX =>
    have offset : s.readByte s.pc = d := (State.bytesAt_cons bytes).1
    have atX (t : State) (d' : Word) : runTransfers [.readAlu .xDirL u] ⟨t, co, d'⟩ =
        ⟨t.passAlu u (t.readByte (t.x + sext16 (lo d'))), co, d'⟩ := rfl
    refine ⟨concat (hi dir) d, ?_⟩
    rw [Op8.transfers, run_fetchDirL, offset, atX, lo_concat]
    rfl
  case reg =>
    refine ⟨dir, ?_⟩
    rw [Op8.operandBytes, List.length_nil, noBytes]
    rfl
  case dat8 =>
    have operand : s.readByte s.pc = d := (State.bytesAt_cons bytes).1
    refine ⟨dir, ?_⟩
    rw [Op8.transfers, run_fetchAlu, operand]
    rfl

/-- R307: the register is stored at the effective address, PC past its operand bytes. -/
theorem run_mem8 {s : State} {m : Mem8} (bytes : s.BytesAt s.pc m.operandBytes) (r : Reg8) (co : Byte)
    (dir : Word) :
    ∃ dir', runTransfers (Mem8.transfers r m) ⟨s, co, dir⟩ =
      ⟨({ s with pc := s.pc + BitVec.ofNat 16 m.operandBytes.length } : State).writeByte (s.ea m) (s.reg8 r),
        co, dir'⟩ := by
  have noBytes : s.pc + BitVec.ofNat 16 0 = s.pc := BitVec.add_zero _
  cases m with
  | addr a =>
    refine ⟨a, ?_⟩
    rw [Mem8.transfers, run_fetchDir bytes]
    rfl
  | atBC =>
    refine ⟨dir, ?_⟩
    rw [Mem8.operandBytes, List.length_nil, noBytes]
    rfl
  | atX d =>
    have offset : s.readByte s.pc = d := (State.bytesAt_cons bytes).1
    have atX (t : State) (d' : Word) : runTransfers [.write .xDirL r] ⟨t, co, d'⟩ =
        ⟨t.writeByte (t.x + sext16 (lo d')) (t.reg8 r), co, d'⟩ := rfl
    refine ⟨concat (hi dir) d, ?_⟩
    rw [Mem8.transfers, run_fetchDirL, offset, atX, lo_concat]
    rfl

/-- A 16-bit register written by halves, the low one first. -/
theorem State.setHalf_setHalf (s : State) (r : Reg16) (h l : Byte) :
    (s.setHalf (Reg16.low r) l).setHalf (Reg16.high r) h = s.setReg16 r (concat h l) := by
  cases r
  case bc => rw [State.setReg16_bc, hi_concat, lo_concat]; rfl
  case x => exact congrArg (fun v => { s with x := concat h v }) (lo_concat (hi s.x) l)
  case sp => exact congrArg (fun v => { s with sp := concat h v }) (lo_concat (hi s.sp) l)

/-- The halves of a 16-bit register. -/
theorem State.half_eq (s : State) (q : Reg16) :
    s.half (Reg16.low q) = lo (s.reg16 q) ∧ s.half (Reg16.high q) = hi (s.reg16 q) := by
  cases q
  case bc => exact ⟨(lo_concat s.b s.c).symm, (hi_concat s.b s.c).symm⟩
  all_goals exact ⟨rfl, rfl⟩

/-- A write of a low half leaves the high halves. -/
theorem State.half_high_setHalf_low (s : State) (r q : Reg16) (v : Byte) :
    (s.setHalf (Reg16.low r) v).half (Reg16.high q) = s.half (Reg16.high q) := by
  cases r <;> cases q
  case x.x => exact hi_concat (hi s.x) v
  case sp.sp => exact hi_concat (hi s.sp) v
  all_goals rfl

/-- R308: the operand moves to the register by halves, PC past its bytes. -/
theorem run_op16 {s : State} {q : Op16} (bytes : s.BytesAt s.pc q.operandBytes) (r : Reg16) (co : Byte)
    (dir : Word) :
    runTransfers (Op16.transfers r q) ⟨s, co, dir⟩ =
      ⟨({ s with pc := s.pc + BitVec.ofNat 16 q.operandBytes.length } : State).setReg16 r (s.readOp16 q),
        co, dir⟩ := by
  cases q with
  | reg q =>
    have moved : runTransfers (Op16.transfers r (.reg q)) ⟨s, co, dir⟩ =
        ⟨(s.setHalf (Reg16.low r) (s.half (Reg16.low q))).setHalf (Reg16.high r)
          ((s.setHalf (Reg16.low r) (s.half (Reg16.low q))).half (Reg16.high q)), co, dir⟩ := by
      cases r <;> rfl
    obtain ⟨low, high⟩ := s.half_eq q
    have noBytes : s.pc + BitVec.ofNat 16 0 = s.pc := BitVec.add_zero _
    rw [moved, State.half_high_setHalf_low, State.setHalf_setHalf, low, high, concat_hi_lo, Op16.operandBytes,
      List.length_nil, noBytes, State.readOp16_reg]
  | dat16 d =>
    obtain ⟨low, high⟩ := State.bytesAt_pair bytes
    have moved : runTransfers (Op16.transfers r (.dat16 d)) ⟨s, co, dir⟩ =
        ⟨(({ s with pc := s.pc + 1 + 1 } : State).setHalf (Reg16.low r) (s.readByte s.pc)).setHalf
          (Reg16.high r) (s.readByte (s.pc + 1)), co, dir⟩ := by
      cases r <;> rfl
    have twoBytes : s.pc + BitVec.ofNat 16 (Op16.dat16 d).operandBytes.length = s.pc + 1 + 1 :=
      add_ofNat_succ s.pc 1
    rw [moved, low, high, State.setHalf_setHalf, concat_hi_lo, twoBytes, State.readOp16_dat16]

/-! ### Whole sequences -/

/-- The state of `d` is what the instruction at PC answers from past it, and CO holds its first byte. -/
def CarriesOut (i : Instr) (s : State) (d : Datapath) : Prop :=
  exec i { s with pc := s.pc + BitVec.ofNat 16 (encode i).length } = .next d.s ∧ d.co = s.readByte s.pc

/-- R295, F and F_flag: the transfer fetches the opcode to CO and leaves the flags `f`. -/
def Transfer.FetchesCode (t : Transfer) (s : State) (f : Flags) : Prop :=
  ∀ (co : Byte) (dir : Word),
    t.run ⟨s, co, dir⟩ = ⟨{ s with pc := s.pc + 1, flags := f }, s.readByte s.pc, dir⟩

/-- An opcode fetch, then a rest that works on the operand bytes. -/
theorem carriesOut_of_rest {i : Instr} {s : State} {b : Byte} {bytes : List Byte} {t : Transfer}
    {ts : List Transfer} {f : Flags} (shape : encode i = b :: bytes) (code : s.HasCode i)
    (fetch : t.FetchesCode s f)
    (rest : ∀ (co : Byte) (dir : Word),
      ({ s with pc := s.pc + 1, flags := f } : State).BytesAt (s.pc + 1) bytes →
      ∃ (u : State) (dir' : Word),
        runTransfers ts ⟨{ s with pc := s.pc + 1, flags := f }, co, dir⟩ = ⟨u, co, dir'⟩ ∧
          exec i { s with pc := s.pc + 1 + BitVec.ofNat 16 bytes.length } = .next u)
    (co : Byte) (dir : Word) : CarriesOut i s (runTransfers (t :: ts) ⟨s, co, dir⟩) := by
  have operands : s.BytesAt (s.pc + 1) bytes := by
    rw [State.HasCode, shape] at code
    exact (State.bytesAt_cons code).2
  obtain ⟨u, dir', run, meaning⟩ := rest (s.readByte s.pc) dir operands
  have whole : runTransfers (t :: ts) ⟨s, co, dir⟩ = ⟨u, s.readByte s.pc, dir'⟩ := by
    rw [← run, ← fetch co dir]
    rfl
  rw [CarriesOut, whole, shape, List.length_cons, add_ofNat_succ]
  exact ⟨meaning, rfl⟩

/-- The operand does not depend on PC and the flags, which the fetch of the opcode changes. -/
theorem State.readOp8_fetched (s : State) (p : Word) (f : Flags) (q : Op8) :
    ({ s with pc := p, flags := f } : State).readOp8 q = s.readOp8 q := by
  rcases q with m | r | d
  · cases m <;> rfl
  · cases r <;> rfl
  · rfl

/-- The sequences of `ADD` to `CMP` and of `MOV reg8`: the opcode, then the operand through the ALU. -/
theorem carriesOut_op8 {i : Instr} {s : State} {b : Byte} {q : Op8} {t : Transfer} {u : AluUse} {f : Flags}
    (shape : encode i = b :: q.operandBytes) (code : s.HasCode i) (fetch : t.FetchesCode s f)
    (meaning : ∀ p : Word, exec i { s with pc := p } =
      .next (({ s with pc := p, flags := f } : State).passAlu u (s.readOp8 q)))
    (co : Byte) (dir : Word) : CarriesOut i s (runTransfers (t :: Op8.transfers u q) ⟨s, co, dir⟩) := by
  refine carriesOut_of_rest shape code fetch (fun co dir operands => ?_) co dir
  obtain ⟨dir', run⟩ := run_op8 operands u co dir
  rw [State.readOp8_fetched] at run
  exact ⟨_, dir', run, meaning _⟩

/-- R311: the sequence of a conditional jump, taken or not. -/
theorem carriesOut_jump {i : Instr} {s : State} {b rel : Byte} (shape : encode i = [b, rel])
    (code : s.HasCode i) (meaning : ∀ u : State, exec i u = .next (u.jumpIf (Instr.taken u.flags i) rel))
    (co : Byte) (dir : Word) :
    CarriesOut i s (runTransfers (jumpTransfers (Instr.taken s.flags i)) ⟨s, co, dir⟩) := by
  have past : s.pc + 1 + BitVec.ofNat 16 1 = s.pc + 1 + 1 := rfl
  cases taken : Instr.taken s.flags i with
  | true =>
    refine carriesOut_of_rest (f := s.flags) shape code (fun _ _ => rfl) (fun co dir operands => ?_) co dir
    have offset : s.readByte (s.pc + 1) = rel := (State.bytesAt_cons operands).1
    have jumped : runTransfers [.fetchDirL, .addDirL] ⟨{ s with pc := s.pc + 1 }, co, dir⟩ =
        ⟨{ s with pc := s.pc + 1 + 1 + sext16 (lo (concat (hi dir) (s.readByte (s.pc + 1)))) }, co,
          concat (hi dir) (s.readByte (s.pc + 1))⟩ := rfl
    rw [lo_concat, offset] at jumped
    refine ⟨_, _, jumped, ?_⟩
    rw [meaning, State.jumpIf_eq, taken]
    rfl
  | false =>
    refine carriesOut_of_rest (f := s.flags) shape code (fun _ _ => rfl) (fun co dir _ => ?_) co dir
    refine ⟨{ s with pc := s.pc + 1 + 1 }, dir, rfl, ?_⟩
    rw [meaning, State.jumpIf_eq, taken]
    rfl

/-- R307: the sequence of a store. -/
theorem carriesOut_movMem8 {s : State} {m : Mem8} {r : Reg8} (code : s.HasCode (.movMem8 m r)) (co : Byte)
    (dir : Word) : CarriesOut (.movMem8 m r) s (runTransfers (.fetchCode :: Mem8.transfers r m) ⟨s, co, dir⟩) := by
  refine carriesOut_of_rest (f := s.flags) rfl code (fun _ _ => rfl) (fun co dir operands => ?_) co dir
  obtain ⟨dir', run⟩ := run_mem8 operands r co dir
  exact ⟨_, dir', run, rfl⟩

/-- R308: the sequence of a 16-bit move. -/
theorem carriesOut_movReg16 {s : State} {r : Reg16} {q : Op16} (code : s.HasCode (.movReg16 r q)) (co : Byte)
    (dir : Word) : CarriesOut (.movReg16 r q) s (runTransfers (.fetchCode :: Op16.transfers r q) ⟨s, co, dir⟩) :=
  carriesOut_of_rest (f := s.flags) rfl code (fun _ _ => rfl)
    (fun co dir operands => ⟨_, dir, run_op16 operands r co dir, rfl⟩) co dir

/-- R312: the sequence of the absolute jump, which leaves PC at the last byte until it is loaded. -/
theorem carriesOut_jmpAddr {s : State} {p : Word} (code : s.HasCode (.jmpAddr p)) (co : Byte) (dir : Word) :
    CarriesOut (.jmpAddr p) s
      (runTransfers [.fetchCode, .fetchDirL, .fetchDirHNoinc, .dirToPc] ⟨s, co, dir⟩) := by
  refine carriesOut_of_rest (f := s.flags) rfl code (fun _ _ => rfl) (fun co dir operands => ?_) co dir
  obtain ⟨low, high⟩ := State.bytesAt_pair operands
  have loaded (t : State) (d : Word) : runTransfers [.fetchDirHNoinc, .dirToPc] ⟨t, co, d⟩ =
      ⟨{ t with pc := concat (t.readByte t.pc) (lo d) }, co, concat (t.readByte t.pc) (lo d)⟩ := rfl
  have second : ({ s with pc := s.pc + 1 + 1 } : State).readByte (s.pc + 1 + 1) = hi p := high
  refine ⟨{ s with pc := p }, p, ?_, rfl⟩
  rw [run_fetchDirL, low, loaded, second, lo_concat, concat_hi_lo]

/-- R314: the sequence of a call. -/
theorem carriesOut_call {s : State} {p : Word} (code : s.HasCode (.call p)) (co : Byte) (dir : Word) :
    CarriesOut (.call p) s
      (runTransfers (.fetchCode :: .fetchDirL :: .fetchDirH :: (pushPc ++ [.dirToPc])) ⟨s, co, dir⟩) := by
  refine carriesOut_of_rest (f := s.flags) rfl code (fun _ _ => rfl) (fun co dir operands => ?_) co dir
  rw [run_fetchDir operands, runTransfers_append, run_pushPc]
  exact ⟨_, _, rfl, rfl⟩

/-- R316: the sequence of a software interrupt. -/
theorem carriesOut_int {s : State} {v : Byte} (code : s.HasCode (.int v)) (co : Byte) (dir : Word) :
    CarriesOut (.int v) s
      (runTransfers (.fetchCode :: .fetchDirL :: (pushPc ++ loadEntry)) ⟨s, co, dir⟩) := by
  refine carriesOut_of_rest (f := s.flags) rfl code (fun _ _ => rfl) (fun co dir operands => ?_) co dir
  have vector : s.readByte (s.pc + 1) = v := (State.bytesAt_cons operands).1
  have vector' : ({ s with pc := s.pc + 1 } : State).readByte (s.pc + 1) = v := vector
  rw [run_fetchDirL, vector', runTransfers_append, run_pushPc, run_loadEntry, lo_concat]
  exact ⟨_, _, rfl, rfl⟩

/-- R67: the drop of a pair is two steps of SP. -/
theorem State.dropPair_eq_steps (s : State) : s.dropPair = { s with sp := s.sp + 1 + 1 } := by
  have steps : s.sp + 2 = s.sp + 1 + 1 := by bv_omega
  rw [State.dropPair_eq, steps]

/-- R309: the sequence of `POP AF`. -/
theorem carriesOut_popAF (s : State) (co : Byte) (dir : Word) :
    CarriesOut .popAF s
      (runTransfers [.fetchCode, .readStack .f, .incSp, .readStackAlu .a, .incSp] ⟨s, co, dir⟩) := by
  rw [CarriesOut, exec_popAF, State.dropPair_eq_steps]
  exact ⟨rfl, rfl⟩

/-- R309: the sequence of `POP BC`. -/
theorem carriesOut_popBC (s : State) (co : Byte) (dir : Word) :
    CarriesOut .popBC s
      (runTransfers [.fetchCode, .readStackAlu .c, .incSp, .readStackAlu .b, .incSp] ⟨s, co, dir⟩) := by
  rw [CarriesOut, exec_popBC, State.dropPair_eq_steps]
  exact ⟨rfl, rfl⟩

/-- R309: the sequence of `POP X`, which loads X by halves. -/
theorem carriesOut_popX (s : State) (co : Byte) (dir : Word) :
    CarriesOut .popX s
      (runTransfers [.fetchCode, .readStack .xl, .incSp, .readStack .xh, .incSp] ⟨s, co, dir⟩) := by
  rw [CarriesOut, exec_popX, State.dropPair_eq_steps]
  exact ⟨congrArg (fun l => Host.Outcome.next
    { s with pc := s.pc + 1, sp := s.sp + 1 + 1, x := concat (s.readByte (s.sp + 1)) l })
    (lo_concat (hi s.x) (s.readByte s.sp)).symm, rfl⟩

/-- R315: the sequence of the return, which loads PC by halves. -/
theorem carriesOut_ret (s : State) (co : Byte) (dir : Word) :
    CarriesOut .ret s
      (runTransfers [.fetchCodeNoinc, .readStack .pcl, .incSp, .readStack .pch, .incSp] ⟨s, co, dir⟩) := by
  rw [CarriesOut, exec_ret, State.dropPair_eq_steps]
  exact ⟨congrArg (fun l => Host.Outcome.next
    { s with sp := s.sp + 1 + 1, pc := concat (s.readByte (s.sp + 1)) l })
    (lo_concat (hi s.pc) (s.readByte s.sp)).symm, rfl⟩

/-- R304: `SHL` rotates through the carry that its opcode fetch cleared. -/
theorem carriesOut_shl (s : State) (co : Byte) (dir : Word) :
    CarriesOut .shl s (runTransfers [.fetchCodeC false, .oper1 0b1001] ⟨s, co, dir⟩) := by
  rw [CarriesOut, exec_shl, shl8_eq_rcl8]
  exact ⟨rfl, rfl⟩

/-- R304: `SHR` rotates through the carry that its opcode fetch cleared. -/
theorem carriesOut_shr (s : State) (co : Byte) (dir : Word) :
    CarriesOut .shr s (runTransfers [.fetchCodeC false, .oper1 0b1010] ⟨s, co, dir⟩) := by
  rw [CarriesOut, exec_shr, shr8_eq_rcr8]
  exact ⟨rfl, rfl⟩

/-- R294 to R316, instruction by instruction. -/
theorem transfers_carryOut {s : State} {i : Instr} {ts : List Transfer}
    (sequence : Instr.transfers s.flags i = some ts) (code : s.HasCode i) (co : Byte) (dir : Word) :
    CarriesOut i s (runTransfers ts ⟨s, co, dir⟩) := by
  cases i
  case hlt => cases sequence
  all_goals
    obtain rfl := Option.some.inj sequence
    clear sequence
  case jc d | jnc d | jo d | jno d | jp d | jnp d | js d | jns d | jz d | jnz d =>
    exact carriesOut_jump rfl code (fun _ => rfl) co dir
  case add q | sub q | cmp q =>
    refine carriesOut_op8 (f := { s.flags with fc := false }) rfl code (fun _ _ => rfl) (fun p => ?_) co dir
    rw [← s.readOp8_fetched p s.flags q]
    rfl
  case adc q | sbb q | and q | or q | xor q | movReg8 r q =>
    refine carriesOut_op8 (f := s.flags) rfl code (fun _ _ => rfl) (fun p => ?_) co dir
    rw [← s.readOp8_fetched p s.flags q]
    rfl
  case movMem8 m r => exact carriesOut_movMem8 code co dir
  case movReg16 r q => exact carriesOut_movReg16 code co dir
  case call p => exact carriesOut_call code co dir
  case jmpAddr p => exact carriesOut_jmpAddr code co dir
  case int v => exact carriesOut_int code co dir
  case popAF => exact carriesOut_popAF s co dir
  case popBC => exact carriesOut_popBC s co dir
  case popX => exact carriesOut_popX s co dir
  case ret => exact carriesOut_ret s co dir
  case shl => exact carriesOut_shl s co dir
  case shr => exact carriesOut_shr s co dir
  all_goals exact ⟨rfl, rfl⟩

/-- R317: the sequence of a hardware-interrupt entry makes the transfer through the vector table. -/
theorem run_hwInterrupt (s : State) (v co : Byte) (dir : Word) :
    (runTransfers (hwInterruptTransfers v) ⟨s, co, dir⟩).s = s.takeVector v := by
  have request : runTransfers (hwInterruptTransfers v) ⟨s, co, dir⟩ =
      runTransfers (pushPc ++ loadEntry) ⟨s, co, concat (hi dir) v⟩ := rfl
  rw [request, runTransfers_append, run_pushPc, run_loadEntry, lo_concat]
  rfl

/-- Settles O60: every sequence carries its instruction out; that of the entry pushes PC and loads it, and the
halt state and F.I are the entry's own. -/
theorem basicOperationsCarryOutInstructions : Obligations.BasicOperationsCarryOutInstructions := by
  unfold Obligations.BasicOperationsCarryOutInstructions
  refine ⟨fun s i ts co dir sequence code => transfers_carryOut sequence code co dir, fun s v co dir => ?_⟩
  rw [run_hwInterrupt, ← s.hwInterruptEntry_flags_eq v]
  rfl

end Sys2Proof.Machine
end
